-- ==== Sys2Proof/Word.lean ====
section
/-!
DEFINITION. The widths of what the spec treats as bits: register values, channel samples, packet words,
amplifier addresses and the two encoded units. All values are unsigned and wrap (00_scope.md R9, R10).
-/

namespace Sys2Proof

/-- An amplifier register's value, and a byte of the packet buffer (R31, R142). -/
abbrev Byte := BitVec 8

/-- One half of a byte: the packet's start and source fields (R71). -/
abbrev Nibble := BitVec 4

/-- The content of one channel: 32 bits (R54, R90). -/
abbrev Sample := BitVec 32

/-- The packet word `W[63:0]` (R71). -/
abbrev PktWord := BitVec 64

/-- The five data bytes of a packet, `data[0]` lowest (R71). -/
abbrev PktData := BitVec 40

/-- The address of an amplifier register (R50). -/
abbrev RegAddr := BitVec 16

/-- One register write as an abstract pair: address in bits 23 to 8, value in bits 7 to 0 (R73). -/
abbrev AmpWord := BitVec 24

end Sys2Proof
end

