-- ==== Sys2Proof/Machine/AmpTable.lean ====
section
/-!
DEFINITION. The amplifier's register table, a constant list (43_max98388.md R166), and the power-up
values it gives (R167).
-/

namespace Sys2Proof.Machine

/-- One row of the register table (R166). -/
structure AmpRow where
  name : String
  addr : RegAddr
  value : Byte
  isDefault : Bool
  deriving DecidableEq, Repr

/-- Rows 1 to 10 of the table of R166. -/
def ampTable1 : List AmpRow :=
  [⟨"THERMAL_WRN", 0x2020#16, 0x0A#8, true⟩,
   ⟨"SPK_MON_THRESH", 0x2031#16, 0x58#8, true⟩,
   ⟨"SPK_MON_LOAD", 0x2032#16, 0x08#8, true⟩,
   ⟨"SPK_MON_DUR", 0x2033#16, 0x02#8, true⟩,
   ⟨"ERROR_MON_CTL", 0x2037#16, 0x01#8, true⟩,
   ⟨"PCM_MODE_CFG", 0x2040#16, 0xD9#8, false⟩,
   ⟨"PCM_CLK_SETUP", 0x2041#16, 0x08#8, false⟩,
   ⟨"PCM_SAMPLE_RATE", 0x2042#16, 0x88#8, false⟩,
   ⟨"PCM_TX_CTL1", 0x2044#16, 0x10#8, false⟩,
   ⟨"PCM_TX_CTL2", 0x2045#16, 0x14#8, false⟩]

/-- Rows 11 to 20 of the table of R166. -/
def ampTable2 : List AmpRow :=
  [⟨"PCM_HIZ_CTL1", 0x2050#16, 0xFF#8, true⟩,
   ⟨"PCM_HIZ_CTL2", 0x2051#16, 0xFF#8, true⟩,
   ⟨"PCM_HIZ_CTL3", 0x2052#16, 0xFF#8, true⟩,
   ⟨"PCM_HIZ_CTL4", 0x2053#16, 0xFF#8, true⟩,
   ⟨"PCM_HIZ_CTL5", 0x2054#16, 0xFF#8, true⟩,
   ⟨"PCM_HIZ_CTL6", 0x2055#16, 0xFF#8, true⟩,
   ⟨"PCM_HIZ_CTL7", 0x2056#16, 0xFF#8, true⟩,
   ⟨"PCM_HIZ_CTL8", 0x2057#16, 0xFF#8, true⟩,
   ⟨"PCM_RX_SRC1", 0x2058#16, 0x00#8, true⟩,
   ⟨"PCM_RX_SRC2", 0x2059#16, 0x10#8, false⟩]

/-- Rows 21 to 30 of the table of R166. -/
def ampTable3 : List AmpRow :=
  [⟨"PCM_TX_DRV_STR", 0x205C#16, 0x01#8, true⟩,
   ⟨"PCM_TX_SRC_EN", 0x205D#16, 0x03#8, false⟩,
   ⟨"PCM_RX_EN", 0x205E#16, 0x01#8, false⟩,
   ⟨"PCM_TX_EN", 0x205F#16, 0x01#8, false⟩,
   ⟨"SPK_VOL_CTL", 0x2090#16, 0x00#8, true⟩,
   ⟨"SPK_CH_CFG", 0x2091#16, 0x02#8, true⟩,
   ⟨"SPK_AMP_OUT_CFG", 0x2092#16, 0x03#8, true⟩,
   ⟨"SPK_AMP_SSM_CFG", 0x2093#16, 0x01#8, true⟩,
   ⟨"SPK_AMP_EDGE_RATE_CTL", 0x2094#16, 0x0F#8, true⟩,
   ⟨"SPK_CH_PINK_NOISE_EN", 0x209E#16, 0x00#8, true⟩]

/-- Rows 31 to 40 of the table of R166. -/
def ampTable4 : List AmpRow :=
  [⟨"SPK_CH_AMP_EN", 0x209F#16, 0x01#8, false⟩,
   ⟨"IV_DATA_DSP_CTL", 0x20A0#16, 0x10#8, true⟩,
   ⟨"IV_DATA_EN", 0x20A7#16, 0x03#8, false⟩,
   ⟨"BRWNOUT_PROT_ALC_THRESH", 0x20E0#16, 0x04#8, true⟩,
   ⟨"BRWNOUT_PROT_ALC_RATES", 0x20E1#16, 0x20#8, true⟩,
   ⟨"BRWNOUT_PROT_ALC_ATTN", 0x20E2#16, 0x06#8, true⟩,
   ⟨"BRWNOUT_PROT_ALC_RELEASE", 0x20E3#16, 0x02#8, true⟩,
   ⟨"BRWNOUT", 0x20E4#16, 0x33#8, true⟩,
   ⟨"BRWNOUT_PROT_ALC_INF_HOLD_RELEASE", 0x20EE#16, 0x00#8, true⟩,
   ⟨"BRWNOUT_PROT_ALC_EN", 0x20EF#16, 0x00#8, true⟩]

/-- The 40 rows in the source's order (R166). -/
def ampTable : List AmpRow := ampTable1 ++ ampTable2 ++ ampTable3 ++ ampTable4

/-- The row of a list of rows with an address, where there is one. -/
def findRow (a : Nat) : List AmpRow → Option AmpRow
  | [] => none
  | r :: rs => if r.addr.toNat = a then some r else findRow a rs

/-- The row of the table with address `a`; none for an address outside the 40 (R50). -/
def ampRow (a : Nat) : Option AmpRow := findRow a ampTable

/-- Whether `a` is one of the 40 addresses of the table (R50, R80). -/
def ampListed (a : Nat) : Bool := (ampRow a).isSome

/-- What register `a` holds after power-up: the table's value where the row is marked default, no value
for the 11 other rows (R167, R39; DEDUCED, log 8). -/
def ampPowerUp (a : Nat) : Option Byte :=
  match ampRow a with
  | some r => if r.isDefault then some r.value else none
  | none => none

/-- A table row as an `AMPW24` unit: address in bits 23 to 8, value in bits 7 to 0 (R73). -/
def AmpRow.word (r : AmpRow) : AmpWord := r.addr ++ r.value

/-- The 40 units of `AmpInit`, in the table's order (R168). -/
def ampWords : List AmpWord := ampTable.map AmpRow.word

end Sys2Proof.Machine
end

