-- ==== Sys2Proof/Config.lean ====
section
/-!
DEFINITION. What is fixed for the machine and is no state (00_scope.md R15): the parameters of R7, the
wiring tables of R110 and R161, the devices of R201, and the parameters and draws the source leaves open
(R8, R12; DESIGN CHOICE, log 13, 30), each an opaque constant of which nothing can be proved but its type.
-/

namespace Sys2Proof.Config

/-! ### Parameters with a value (R7, R90, R92, R216) -/

/-- `F_SAMPLE`, in Hz (R7). -/
def sampleRate : Nat := 48000
/-- `N_BITS`: the bits of a sample and of a channel (R7). -/
def sampleBits : Nat := 32
/-- `N_CHANNELS` in a frame (R7). -/
def channels : Nat := 8
/-- `FRAME_BITS` (R7, R90). -/
def frameBits : Nat := 256
/-- `N_PAIRS` in a frame (R7). -/
def pairs : Nat := 4
/-- `F_BITCLK` as the formula of R92 gives it, in Hz. -/
def bitClock : Nat := sampleBits * sampleRate * channels
/-- `F_FRAMESYNC`, in Hz: the frame sync runs at the sample rate (R92). -/
def frameSync : Nat := sampleRate
/-- `PKT_BITS` (R7, R140). -/
def packetBits : Nat := 64
/-- The widths of start, source, length, data and CRC, in the source's order (R7, R140). -/
def packetFieldWidths : List Nat := [4, 4, 8, 40, 8]
/-- `START_NIBBLE` (R7, R143). -/
def startNibble : Nibble := 0xD#4
/-- `SRC_GPIO`, the one implemented member of `data_src_t` (R7, R82). -/
def srcGpio : Nibble := 0x0#4
/-- `I2C_PULLUP`: the resistance, in ohms, from SDA and SCL to Vdd (R7, R164, R214). -/
def i2cPullupOhms : Nat := 2200
/-- `I2C_PULLUP`: Vdd, in millivolts (R7, R164, R214). -/
def i2cPullupMillivolts : Nat := 1800
/-- `AMP_I2C_ADDR_AS_PRINTED` (R7); whether it stands before or after the shift is open (R53). -/
def ampI2cAddrAsPrinted : BitVec 7 := 0x70#7
/-- `I2C_BAUD`, in bits per second (R7, R164). -/
def i2cBaud : Nat := 100000
/-- `N_AMP_REGS` (R7, R166). -/
def ampRegs : Nat := 40
/-- The Flexcomm ports that carry I2S on both boards (R7, R96). -/
def i2sPorts : List Nat := [4, 5]
/-- The master's transmit port, the one that drives `TXM` ("FC4 on Master", R96). That Flexcomm 5 is the
master's receive port follows by elimination and is not stated, nor which port of the slave transmits. -/
def masterTransmitPort : Nat := 4
/-- The Flexcomm port that carries I2C on the master (R7, R164). -/
def i2cPort : Nat := 3
/-- The width of an amplifier slot in bits (R173, the decision D19). -/
def ampSlotBits : Nat := 8
/-- The first of the two slots of the voltage data, "slots 16/17" (R173). -/
def voltageSlot : Nat := 16
/-- The first of the two slots of the current data, "slots 20/21" (R173). -/
def currentSlot : Nat := 20

/-- The identifiers of the RT685 the source names, with the kind it gives each (R34); the model holds
their stated effect only (R97). -/
def sharedClockNames : List (String × String) :=
  [("SHAREDCTRLSET", "register"), ("SHAREDSCKSEL", "bit of SHAREDCTRLSET"),
   ("SHAREDWSSEL", "bit of SHAREDCTRLSET"), ("FCCTRLSEL", "register"),
   ("SCKINSEL", "bits of FCCTRLSEL"), ("WSINSEL", "bits of FCCTRLSEL")]

/-! ### Wiring (R110, R161, R163): fixed relations between pins -/

/-- The function of a pin of an I2S port, as the wiring table prints it (R110). -/
inductive PinFunction where
  | data | ws | sck | gnd
  deriving DecidableEq, Repr, Inhabited

/-- One row of the boards' wiring table (R110). -/
structure BoardPin where
  port : String
  pin : Nat
  flexcomm : Option Nat
  printed : PinFunction
  deriving DecidableEq, Repr

/-- The boards' wiring table as printed (R110); what J28 pin 6 really is stands in `j28Pin6`. -/
def boardWiring : List BoardPin :=
  [⟨"J27", 1, some 4, .data⟩, ⟨"J27", 2, some 4, .ws⟩, ⟨"J27", 3, some 4, .sck⟩,
   ⟨"J28", 4, some 5, .data⟩, ⟨"J28", 5, some 5, .ws⟩, ⟨"J28", 6, some 5, .data⟩,
   ⟨"J28", 7, none, .gnd⟩]

/-- One row of the amplifier's connection table (R161): the board's header and pin (none where the
table leaves them blank), the pin of the AUD INT 3 connector, and the note ("See above" repeats the row
before). -/
structure AmpPin where
  signal : String
  header : Option (String × Nat)
  audInt3 : Nat
  note : Option String
  deriving DecidableEq, Repr

/-- The amplifier's connection table (R161). -/
def ampWiring : List AmpPin :=
  [⟨"GND", some ("J25", 1), 3, none⟩,
   ⟨"Vdd", some ("JP28", 1), 20, some "This is a jumper used for power measurements"⟩,
   ⟨"SDA", some ("J19", 18), 26, some "50 mil pins require a breakout"⟩,
   ⟨"SCL", some ("J19", 20), 29, some "See above"⟩,
   ⟨"BCLK", some ("J27", 3), 5, some "FC4 on Master"⟩, ⟨"WS", some ("J27", 2), 8, some "See above"⟩,
   ⟨"DataIn", some ("J27", 1), 11, some "See above"⟩, ⟨"DataOut", none, 14, none⟩]

/-- On which board the source places a thing (R201). -/
inductive Placement where
  | both | masterOnly | notStated
  deriving DecidableEq, Repr

/-- One row of the list of devices, pins and connectors (R201): the thing, the headers and pins it is on
(none where the header is not named), its board, its use. -/
structure DevicePlace where
  name : String
  pins : List (Option String × Nat)
  board : Placement
  use : String
  deriving DecidableEq, Repr

/-- Every device, pin and connector the source places on a board (R201); none has a memory address. -/
def devices : List DevicePlace :=
  [⟨"Switch 2", [], .both, "master: start; slave: send"⟩,
   ⟨"blue user LED", [], .both, "on at boot when slave"⟩,
   ⟨"green user LED", [], .both, "on when transmission begins"⟩,
   ⟨"LED_RX", [], .masterOnly, "follows the received packet"⟩,
   ⟨"P0_6", [(some "J30", 2)], .both, "role input"⟩,
   ⟨"P0_5", [(some "J30", 1)], .notStated, "diagnostic mirror of Switch 2"⟩,
   ⟨"ground", [(some "J29", 7)], .both, "a ground to pull P0_6 low"⟩,
   ⟨"pin 4", [(none, 4)], .both, "a high level for P0_6"⟩] ++
  [⟨"JP41", [], .notStated, "routes Flexcomm 5 data to the Arduino header in position 2-3"⟩,
   ⟨"Flexcomm 4", [(some "J27", 1), (some "J27", 2), (some "J27", 3)], .both,
    "I2S; on the master, transmit"⟩,
   ⟨"Flexcomm 5", [(some "J28", 4), (some "J28", 5), (some "J28", 6)], .both, "I2S"⟩,
   ⟨"Flexcomm 3", [(some "J19", 18), (some "J19", 20)], .masterOnly, "I2C to the amplifier, 100 kbps"⟩,
   ⟨"ground to the kit", [(some "J25", 1)], .masterOnly, "ground to the amplifier kit"⟩,
   ⟨"Vdd to the kit", [(some "JP28", 1)], .masterOnly, "1.8 V Vdd to the amplifier kit"⟩,
   ⟨"CS42448 codec", [], .masterOnly, "unused"⟩,
   ⟨"other built in peripherals including switches and LEDs", [], .both, "not used beyond the above"⟩]

/-- A row of the AUD INT 3 connector (R163). -/
inductive PinRow where
  | top | middle | bottom
  deriving DecidableEq, Repr

/-- The row of a pin of the AUD INT 3 connector: pins run down each column of three (R163). -/
def audInt3Row (pin : Nat) : PinRow :=
  if pin % 3 = 1 then .top else if pin % 3 = 2 then .middle else .bottom

/-! ### Parameters the source leaves open (R8): opaque, so a claim holds for every value -/

/-- Which of the two shared clock sets is used (R98). -/
inductive SharedSet where
  | first | second
  deriving DecidableEq, Repr, Inhabited

/-- `shared_set` (R98); no rule depends on it. -/
opaque sharedSet : SharedSet
/-- `j28_pin6` (R110, C5); no rule depends on it. -/
opaque j28Pin6 : PinFunction
/-- Whether the printed 0x70 is the address before the shift (R53, C9). -/
opaque ampI2cAddrIsPrinted : Bool
/-- `amp_i2c_addr`, a 7-bit number, one of the two readings of the printed 0x70 (R53); no rule depends
on it. -/
def ampI2cAddr : BitVec 7 := if ampI2cAddrIsPrinted then ampI2cAddrAsPrinted else 0x38#7
/-- `i2c_framing`: the bytes of one register write on the I2C wire (R73, R165); no rule depends on it. -/
opaque i2cFraming : RegAddr → Byte → List Byte
/-- `amp_global_en`: whether the amplifier's global enable is set (R169; DESIGN CHOICE,
log 16). -/
opaque ampGlobalEn : Bool
/-- `pkt_frames` less one. -/
opaque pktFramesLess1 : Nat
/-- `pkt_frames`: in how many frames one packet is placed, at least 1 (R8, R30). -/
def pktFrames : Nat := pktFramesLess1 + 1

/-- `crc8` on every buffer but the two whose CRC the source gives (R8, R144, D3; log 10); the field itself
is `Machine.crc8`, its default instance `Machine.crc8Default`. -/
opaque crc8Other : List Byte → Byte

/-- `wire_map` as a permutation of the packet words (DEDUCED, log 12): any `encode` with `decode (encode W) = W` is one,
since the two cells of a pair hold 64 bits (R106). -/
opaque wirePerm : Equiv.Perm PktWord

/-- What a read of an amplifier register that holds no value answers, for the observation (R11, R40;
DESIGN CHOICE, log 37). -/
opaque ampUnspecified : RegAddr → Byte

/-! ### Draws (R12, 93_implementation_defined.md U1 to U7, U12): free values. The first argument is
the state's counter of draws, the second a channel. -/

/-- `draw(tone)`: a sample of the tone (R101). -/
opaque tone : Nat → Nat → Sample
/-- `draw(m_data)`: the master's data on `PAIR_3` (R102). -/
opaque mData : Nat → Nat → Sample
/-- `draw(idle_fill)`: what the slave drives in a frame with no packet (R103). -/
opaque idleFill : Nat → Nat → Sample
/-- `draw(v_data)`: the amplifier's voltage cell (R104). -/
opaque vData : Nat → Sample
/-- `draw(i_data)`: the amplifier's current cell (R104). -/
opaque iData : Nat → Sample
/-- `draw(float)`: what is received from a cell nobody drives (R107). -/
opaque float : Nat → Nat → Sample
/-- `draw(noise)`: what is received from a driven cell without the premise `NoNoise` (R107). -/
opaque noise : Nat → Nat → Sample
/-- `draw(p0_5_level)`: whether P0_5 is High after a press (R130). -/
opaque p05High : Nat → Bool
/-- `choose(send_now)`: whether a pending packet is placed in this frame (R103). -/
opaque sendNow : Nat → Bool

end Sys2Proof.Config
end

