-- ==== Sys2Proof/Syntax.lean ====
section
/-!
DEFINITION. The encoded units of the hardware, one constructor per row of spec/opcode_table.json
(30_encoding.md R77): the one packet row of format `PKT64` with its three free fields, and the 40
amplifier register writes of format `AMPW24`, whose address and value are constants of the row (R76).
-/

namespace Sys2Proof

/-- The 41 encoded units (R77). -/
inductive Instr where
  /-- `PKT.SRC_GPIO` (R150): `length = W[15:8]`, `data = W[55:16]` with `data[0]` lowest,
  `crc = W[63:56]` (R71). -/
  | pktSrcGpio (length : Byte) (data : PktData) (crc : Byte)
  /-- `AMPW.THERMAL_WRN` (R300): `amp[0x2020] <- 0x0A`. -/
  | ampwThermalWrn
  /-- `AMPW.SPK_MON_THRESH` (R301): `amp[0x2031] <- 0x58`. -/
  | ampwSpkMonThresh
  /-- `AMPW.SPK_MON_LOAD` (R302): `amp[0x2032] <- 0x08`. -/
  | ampwSpkMonLoad
  /-- `AMPW.SPK_MON_DUR` (R303): `amp[0x2033] <- 0x02`. -/
  | ampwSpkMonDur
  /-- `AMPW.ERROR_MON_CTL` (R304): `amp[0x2037] <- 0x01`. -/
  | ampwErrorMonCtl
  /-- `AMPW.PCM_MODE_CFG` (R305): `amp[0x2040] <- 0xD9`. -/
  | ampwPcmModeCfg
  /-- `AMPW.PCM_CLK_SETUP` (R306): `amp[0x2041] <- 0x08`. -/
  | ampwPcmClkSetup
  /-- `AMPW.PCM_SAMPLE_RATE` (R307): `amp[0x2042] <- 0x88`. -/
  | ampwPcmSampleRate
  /-- `AMPW.PCM_TX_CTL1` (R308): `amp[0x2044] <- 0x10`. -/
  | ampwPcmTxCtl1
  /-- `AMPW.PCM_TX_CTL2` (R309): `amp[0x2045] <- 0x14`. -/
  | ampwPcmTxCtl2
  /-- `AMPW.PCM_HIZ_CTL1` (R310): `amp[0x2050] <- 0xFF`. -/
  | ampwPcmHizCtl1
  /-- `AMPW.PCM_HIZ_CTL2` (R311): `amp[0x2051] <- 0xFF`. -/
  | ampwPcmHizCtl2
  /-- `AMPW.PCM_HIZ_CTL3` (R312): `amp[0x2052] <- 0xFF`. -/
  | ampwPcmHizCtl3
  /-- `AMPW.PCM_HIZ_CTL4` (R313): `amp[0x2053] <- 0xFF`. -/
  | ampwPcmHizCtl4
  /-- `AMPW.PCM_HIZ_CTL5` (R314): `amp[0x2054] <- 0xFF`. -/
  | ampwPcmHizCtl5
  /-- `AMPW.PCM_HIZ_CTL6` (R315): `amp[0x2055] <- 0xFF`. -/
  | ampwPcmHizCtl6
  /-- `AMPW.PCM_HIZ_CTL7` (R316): `amp[0x2056] <- 0xFF`. -/
  | ampwPcmHizCtl7
  /-- `AMPW.PCM_HIZ_CTL8` (R317): `amp[0x2057] <- 0xFF`. -/
  | ampwPcmHizCtl8
  /-- `AMPW.PCM_RX_SRC1` (R318): `amp[0x2058] <- 0x00`. -/
  | ampwPcmRxSrc1
  /-- `AMPW.PCM_RX_SRC2` (R319): `amp[0x2059] <- 0x10`. -/
  | ampwPcmRxSrc2
  /-- `AMPW.PCM_TX_DRV_STR` (R320): `amp[0x205C] <- 0x01`. -/
  | ampwPcmTxDrvStr
  /-- `AMPW.PCM_TX_SRC_EN` (R321): `amp[0x205D] <- 0x03`. -/
  | ampwPcmTxSrcEn
  /-- `AMPW.PCM_RX_EN` (R322): `amp[0x205E] <- 0x01`. -/
  | ampwPcmRxEn
  /-- `AMPW.PCM_TX_EN` (R323): `amp[0x205F] <- 0x01`. -/
  | ampwPcmTxEn
  /-- `AMPW.SPK_VOL_CTL` (R324): `amp[0x2090] <- 0x00`. -/
  | ampwSpkVolCtl
  /-- `AMPW.SPK_CH_CFG` (R325): `amp[0x2091] <- 0x02`. -/
  | ampwSpkChCfg
  /-- `AMPW.SPK_AMP_OUT_CFG` (R326): `amp[0x2092] <- 0x03`. -/
  | ampwSpkAmpOutCfg
  /-- `AMPW.SPK_AMP_SSM_CFG` (R327): `amp[0x2093] <- 0x01`. -/
  | ampwSpkAmpSsmCfg
  /-- `AMPW.SPK_AMP_EDGE_RATE_CTL` (R328): `amp[0x2094] <- 0x0F`. -/
  | ampwSpkAmpEdgeRateCtl
  /-- `AMPW.SPK_CH_PINK_NOISE_EN` (R329): `amp[0x209E] <- 0x00`. -/
  | ampwSpkChPinkNoiseEn
  /-- `AMPW.SPK_CH_AMP_EN` (R330): `amp[0x209F] <- 0x01`. -/
  | ampwSpkChAmpEn
  /-- `AMPW.IV_DATA_DSP_CTL` (R331): `amp[0x20A0] <- 0x10`. -/
  | ampwIvDataDspCtl
  /-- `AMPW.IV_DATA_EN` (R332): `amp[0x20A7] <- 0x03`. -/
  | ampwIvDataEn
  /-- `AMPW.BRWNOUT_PROT_ALC_THRESH` (R333): `amp[0x20E0] <- 0x04`. -/
  | ampwBrwnoutProtAlcThresh
  /-- `AMPW.BRWNOUT_PROT_ALC_RATES` (R334): `amp[0x20E1] <- 0x20`. -/
  | ampwBrwnoutProtAlcRates
  /-- `AMPW.BRWNOUT_PROT_ALC_ATTN` (R335): `amp[0x20E2] <- 0x06`. -/
  | ampwBrwnoutProtAlcAttn
  /-- `AMPW.BRWNOUT_PROT_ALC_RELEASE` (R336): `amp[0x20E3] <- 0x02`. -/
  | ampwBrwnoutProtAlcRelease
  /-- `AMPW.BRWNOUT` (R337): `amp[0x20E4] <- 0x33`. -/
  | ampwBrwnout
  /-- `AMPW.BRWNOUT_PROT_ALC_INF_HOLD_RELEASE` (R338): `amp[0x20EE] <- 0x00`. -/
  | ampwBrwnoutProtAlcInfHoldRelease
  /-- `AMPW.BRWNOUT_PROT_ALC_EN` (R339): `amp[0x20EF] <- 0x00`. -/
  | ampwBrwnoutProtAlcEn
  deriving DecidableEq, Repr

end Sys2Proof
end

