-- ==== Sys2Proof/Machine/Operands.lean ====
section
/-!
DEFINITION. Operand forms: the fields of the packet word and its byte buffer (30_encoding.md R71 to R75,
42_data_packet.md R141, R142, R146 up to the CRC), the fields of a register write (R73), the cells of a
pair (40_i2s_bus.md R106) and the arithmetic of positions in a frame (R54, R91, R94, R173).
-/

namespace Sys2Proof.Machine

/-! ### The packet word and its buffer: the layout of the spec's D2 (DESIGN CHOICE, log 11) -/

/-- `unpack(W)[i] = W[8i+7:8i]` (R142). -/
def wordByte (w : PktWord) (i : Nat) : Byte := w.extractLsb' (8 * i) 8

/-- The 8-byte buffer of a packet word, `buf[0]` first (R142). -/
def unpack (w : PktWord) : List Byte :=
  [wordByte w 0, wordByte w 1, wordByte w 2, wordByte w 3,
   wordByte w 4, wordByte w 5, wordByte w 6, wordByte w 7]

/-- `pack(buf)`: the sum of `buf[i] << (8*i)` (R142). -/
def pack : List Byte → PktWord
  | [] => 0
  | b :: bs => b.setWidth 64 + (pack bs) <<< 8

/-- The field `start`, `W[3:0]` (R71). -/
def pktStart (w : PktWord) : Nibble := w.extractLsb' 0 4
/-- The field `source`, `W[7:4]` (R71). -/
def pktSource (w : PktWord) : Nibble := w.extractLsb' 4 4
/-- The field `length`, `W[15:8]` (R71). -/
def pktLength (w : PktWord) : Byte := w.extractLsb' 8 8
/-- The field `data`, `W[55:16]` (R71). -/
def pktData (w : PktWord) : PktData := w.extractLsb' 16 40
/-- The field `crc`, `W[63:56]` (R71). -/
def pktCrc (w : PktWord) : Byte := w.extractLsb' 56 8

/-- The byte `data[j]`, j in 0..4 (R71). -/
def dataByte (d : PktData) (j : Nat) : Byte := d.extractLsb' (8 * j) 8

/-- The five data bytes, `data[0]` first (R71). -/
def dataBytes (d : PktData) : List Byte :=
  [dataByte d 0, dataByte d 1, dataByte d 2, dataByte d 3, dataByte d 4]

/-- The packet word with the given fields and the start nibble 0xD (R71, R143). -/
def pktWord (source : Nibble) (length : Byte) (data : PktData) (crc : Byte) : PktWord :=
  crc ++ data ++ length ++ source ++ Config.startNibble

/-- Whether the bytes from `data[length]` up are zero, as in every packet the slave builds (R74). -/
def tailZero (length : Byte) (data : PktData) : Bool := data >>> (8 * length.toNat) == 0#40

/-! ### The register write -/

/-- The address of a register write, bits 23 to 8 (R73). -/
def ampAddr (w : AmpWord) : RegAddr := w.extractLsb' 8 16
/-- The value of a register write, bits 7 to 0 (R73). -/
def ampValue (w : AmpWord) : Byte := w.extractLsb' 0 8

/-! ### The two cells of a packet's pair: the open parameter `wire_map` (R106) -/

/-- `wire_map.encode`: the two channel cells that carry a packet word, first channel first (R106). -/
def wireEncode (w : PktWord) : Sample × Sample :=
  ((Config.wirePerm w).extractLsb' 0 32, (Config.wirePerm w).extractLsb' 32 32)

/-- `wire_map.decode`: the packet word two channel cells carry (R106). -/
def wireDecode (c : Sample × Sample) : PktWord := Config.wirePerm.symm (c.2 ++ c.1)

/-! ### Positions in a frame -/

/-- The channel of bit position `p`: `p div 32` (R91). -/
def channelOf (p : Nat) : Nat := p / Config.sampleBits
/-- The pair of bit position `p`: `p div 64` (R91). -/
def pairOf (p : Nat) : Nat := p / (2 * Config.sampleBits)
/-- The bit of its channel at bit position `p` (R54). -/
def bitInChannel (p : Nat) : Nat := p % Config.sampleBits
/-- The bit position after `p`: it returns to 0 at each frame sync (R91, R21). -/
def nextPosition (p : Nat) : Nat := (p + 1) % Config.frameBits
/-- The two channels of `PAIR_k` (R94). -/
def pairChannels (k : Nat) : Nat × Nat := (2 * k, 2 * k + 1)
/-- The bit position at which amplifier slot `s` begins (R173). -/
def slotStart (s : Nat) : Nat := s * Config.ampSlotBits
/-- The channel in which amplifier slot `s` begins (R173, R104). -/
def slotChannel (s : Nat) : Nat := channelOf (slotStart s)

end Sys2Proof.Machine
end

