-- ==== Sys2Proof/Machine/Flags.lean ====
section
/-!
DEFINITION. The hardware has no flags (10_state.md R22). Its one yes-or-no check is the packet's CRC
comparison, computed and consumed inside one step: `crc8`, `Valid`, `BuildPacket` and the classes of the
packet's encoding space (42_data_packet.md R144 to R148, 30_encoding.md R78).
-/

namespace Sys2Proof.Machine

/-- One shift-and-reduce step with the generator 0x07 (R145). -/
def crcShift (c : Byte) : Byte :=
  if c.getLsbD 7 then (c <<< 1) ^^^ 0x07#8 else c <<< 1

/-- `n` shift-and-reduce steps. -/
def crcShifts : Nat → Byte → Byte
  | 0, c => c
  | n + 1, c => crcShifts n (crcShift c)

/-- The register after one byte: exclusive or, then eight steps (R145). -/
def crcByte (c b : Byte) : Byte := crcShifts 8 (c ^^^ b)

/-- The default instance of `crc8`: the bytes in order from register 0x00, `buf[7]` taken as 0x00 whatever
it holds (R145). The spec's own finding, not the source's (D3; UNVERIFIED, log 10). -/
def crc8Default (buf : List Byte) : Byte := (buf.set 7 0x00#8).foldl crcByte 0x00#8

/-- An instance of `crc8`: any function of the buffer with `buf[7]` as 0x00 (R78, R146; DEDUCED, log 10)
that has the two input-output pairs the source fixes (R144, R147); `other` is the function on all other
buffers. -/
def crc8Of (other : List Byte → Byte) (buf : List Byte) : Byte :=
  let b := buf.set 7 0x00#8
  if b = [0x0D#8, 0x01#8, 0xFF#8, 0x00#8, 0x00#8, 0x00#8, 0x00#8, 0x00#8] then 0xB7#8
  else if b = [0x0D#8, 0x01#8, 0x00#8, 0x00#8, 0x00#8, 0x00#8, 0x00#8, 0x00#8] then 0x18#8
  else other b

/-- `crc8`, the configuration field of R144: the two pairs, and elsewhere what `Config.crc8Other` gives, of
which nothing can be proved. `Laws.crc8Of_default`: the default instance is one of its values. -/
def crc8 (buf : List Byte) : Byte := crc8Of Config.crc8Other buf

/-- The register of the default instance after each byte, the trace of R147. -/
def crcTrace : Byte → List Byte → List Byte
  | _, [] => []
  | c, b :: bs => crcByte c b :: crcTrace (crcByte c b) bs

/-- Check 2 of R148 with an instance of `crc8`: the stored CRC is the computed one. -/
def crcOkWith (crc : List Byte → Byte) (w : PktWord) : Bool := crc (unpack w) == pktCrc w

/-- Check 2 of R148. -/
def crcOk (w : PktWord) : Bool := crcOkWith crc8 w

/-- `Valid(W)` with an instance of `crc8`: the start nibble, then the CRC (R148). -/
def validWith (crc : List Byte → Byte) (w : PktWord) : Bool :=
  pktStart w == Config.startNibble && crcOkWith crc w

/-- `Valid(W)` (R148). -/
def valid (w : PktWord) : Bool := validWith crc8 w

/-- `BuildPacket` with an instance of `crc8` (R146). -/
def buildPacketWith (crc : List Byte → Byte) (source : Nibble) (length : Byte) (data : List Byte) :
    PktWord :=
  let b0 : Byte := source.setWidth 8 <<< 4 ||| Config.startNibble.setWidth 8
  let buf := b0 :: length :: data
  pack (buf ++ [crc (buf ++ [0x00#8])])

/-- `BuildPacket(source, length, data)` (R146). -/
def buildPacket (source : Nibble) (length : Byte) (data : List Byte) : PktWord :=
  buildPacketWith crc8 source length data

/-- The classes of the `PKT64` encoding space (R78). -/
inductive PktClass where
  | notAPacket
  | corrupted
  | unimplementedSource (source : Nibble)
  /-- `SRC_GPIO`, length 1, data FF 00 00 00 00. -/
  | ledOn
  /-- `SRC_GPIO`, length 1, data 00 00 00 00 00. -/
  | ledOff
  | unspecifiedPayload
  deriving DecidableEq, Repr

/-- The class of a word with an instance of `crc8`, tested in the order of R78: start, CRC, source,
payload. -/
def pktClassWith (crc : List Byte → Byte) (w : PktWord) : PktClass :=
  if pktStart w ≠ Config.startNibble then .notAPacket
  else if !crcOkWith crc w then .corrupted
  else if pktSource w ≠ Config.srcGpio then .unimplementedSource (pktSource w)
  else if pktLength w = 0x01#8 ∧ pktData w = 0x00000000FF#40 then .ledOn
  else if pktLength w = 0x01#8 ∧ pktData w = 0x0000000000#40 then .ledOff
  else .unspecifiedPayload

/-- The class of a word (R78). -/
def pktClass (w : PktWord) : PktClass := pktClassWith crc8 w

end Sys2Proof.Machine
end

