-- ==== Sys2Proof/WellFormed.lean ====
section
/-!
DEFINITION. Which instructions are packets `BuildPacket` can build, or rows of the amplifier table. The
decoder reads more: a word that is no well-formed packet still has the treatment R78 gives it.
-/

namespace Sys2Proof

open Sys2Proof.Machine

/-- A length above 5 cannot be honoured by a 5-byte data field (R74, R152). -/
def lengthFits (length : Byte) : Bool := length.toNat ≤ 5

/-- The three checks of a packet: its length fits, the bytes after its data are zero (R74), its CRC is
that of its buffer (R146). The 40 register writes are constants (R76). -/
def WellFormed : Instr → Bool
  | .pktSrcGpio length data crc =>
      lengthFits length && tailZero length data && crcOk (pktWord Config.srcGpio length data crc)
  | .ampwThermalWrn | .ampwSpkMonThresh | .ampwSpkMonLoad
  | .ampwSpkMonDur | .ampwErrorMonCtl | .ampwPcmModeCfg
  | .ampwPcmClkSetup | .ampwPcmSampleRate | .ampwPcmTxCtl1
  | .ampwPcmTxCtl2 | .ampwPcmHizCtl1 | .ampwPcmHizCtl2
  | .ampwPcmHizCtl3 | .ampwPcmHizCtl4 | .ampwPcmHizCtl5
  | .ampwPcmHizCtl6 | .ampwPcmHizCtl7 | .ampwPcmHizCtl8
  | .ampwPcmRxSrc1 | .ampwPcmRxSrc2 | .ampwPcmTxDrvStr
  | .ampwPcmTxSrcEn | .ampwPcmRxEn | .ampwPcmTxEn
  | .ampwSpkVolCtl | .ampwSpkChCfg | .ampwSpkAmpOutCfg
  | .ampwSpkAmpSsmCfg | .ampwSpkAmpEdgeRateCtl | .ampwSpkChPinkNoiseEn
  | .ampwSpkChAmpEn | .ampwIvDataDspCtl | .ampwIvDataEn
  | .ampwBrwnoutProtAlcThresh | .ampwBrwnoutProtAlcRates | .ampwBrwnoutProtAlcAttn
  | .ampwBrwnoutProtAlcRelease | .ampwBrwnout | .ampwBrwnoutProtAlcInfHoldRelease
  | .ampwBrwnoutProtAlcEn => true

end Sys2Proof
end

