-- ==== Sys2Proof/Decode.lean ====
section
/-!
DEFINITION. The decoder of the two formats of 30_encoding.md R70, total on every word and rejecting by name,
and the encoder. A word's format is decided by the bus it is on (a channel pair: `PKT64`; the I2C port:
`AMPW24`), not by its bits (R70, R81; DESIGN CHOICE, log 31).
-/

namespace Sys2Proof

open Sys2Proof.Machine

/-- An encoded unit: a word and its format (R70). -/
inductive Encoded where
  | pkt64 (w : PktWord)
  | ampw24 (w : AmpWord)
  deriving DecidableEq, Repr

/-- Why a word is no row of the table (R78, R80). -/
inductive Reject where
  /-- The start nibble is not 0xD (R78, R79). -/
  | notAPacket
  /-- The start nibble is 0xD and the source is not `SRC_GPIO` (R78, R151). -/
  | otherSource (source : Nibble)
  /-- The address is none of the 40 (R80). -/
  | unlistedAmpRegister (a : RegAddr)
  /-- The address is listed and the value is not its row's (R73). -/
  | otherAmpValue (a : RegAddr) (v : Byte)
  /-- The buffer is not 8 bytes long (R140). -/
  | notEightBytes
  deriving DecidableEq, Repr

/-- The instruction a packet word selects: `W[3:0] = 0xD` and `W[7:4] = 0x0` (R77); the CRC check is part
of the meaning, not of the match (R77). -/
def decodePkt (w : PktWord) : Except Reject Instr :=
  if pktStart w ≠ Config.startNibble then .error .notAPacket
  else if pktSource w ≠ Config.srcGpio then .error (.otherSource (pktSource w))
  else .ok (.pktSrcGpio (pktLength w) (pktData w) (pktCrc w))

/-- The 40 register writes in the order of the table of R166. -/
def ampInstrs : List Instr :=
  [.ampwThermalWrn, .ampwSpkMonThresh, .ampwSpkMonLoad, .ampwSpkMonDur,
   .ampwErrorMonCtl, .ampwPcmModeCfg, .ampwPcmClkSetup, .ampwPcmSampleRate,
   .ampwPcmTxCtl1, .ampwPcmTxCtl2, .ampwPcmHizCtl1, .ampwPcmHizCtl2,
   .ampwPcmHizCtl3, .ampwPcmHizCtl4, .ampwPcmHizCtl5, .ampwPcmHizCtl6,
   .ampwPcmHizCtl7, .ampwPcmHizCtl8, .ampwPcmRxSrc1, .ampwPcmRxSrc2,
   .ampwPcmTxDrvStr, .ampwPcmTxSrcEn, .ampwPcmRxEn, .ampwPcmTxEn,
   .ampwSpkVolCtl, .ampwSpkChCfg, .ampwSpkAmpOutCfg, .ampwSpkAmpSsmCfg,
   .ampwSpkAmpEdgeRateCtl, .ampwSpkChPinkNoiseEn, .ampwSpkChAmpEn, .ampwIvDataDspCtl,
   .ampwIvDataEn, .ampwBrwnoutProtAlcThresh, .ampwBrwnoutProtAlcRates, .ampwBrwnoutProtAlcAttn,
   .ampwBrwnoutProtAlcRelease, .ampwBrwnout, .ampwBrwnoutProtAlcInfHoldRelease, .ampwBrwnoutProtAlcEn]

/-- The first row with address `a` in a list of rows with their instructions. -/
def findAmpInstr (a : RegAddr) : List (AmpRow × Instr) → Option (AmpRow × Instr)
  | [] => none
  | (r, i) :: rest => if r.addr = a then some (r, i) else findAmpInstr a rest

/-- The decoder of `AMPW24`: a lookup of `addr` in the 40-row table (R73); the value must be the row's,
since both fields are constants of the row (R76). -/
def decodeAmpw (w : AmpWord) : Except Reject Instr :=
  match findAmpInstr (ampAddr w) (ampTable.zip ampInstrs) with
  | none => .error (.unlistedAmpRegister (ampAddr w))
  | some (r, i) =>
    if r.value = ampValue w then .ok i else .error (.otherAmpValue (ampAddr w) (ampValue w))

/-- The decoder, on any encoded unit. -/
def decode : Encoded → Except Reject Instr
  | .pkt64 w => decodePkt w
  | .ampw24 w => decodeAmpw w

/-- The decoder on a packet's byte buffer, `buf[0]` first (R142). -/
def decodeBuffer (buf : List Byte) : Except Reject Instr :=
  if buf.length = 8 then decodePkt (pack buf) else .error .notEightBytes

/-- The instruction the decoder reads from `nbits` bits numbered as spec/opcode_table.json numbers them:
24 bits are a register write (R73), any other width up to 64 a packet word whose higher bits are 0. -/
def decodeTableWord (nbits w : Nat) : Option Instr :=
  if nbits = 24 then
    match decodeAmpw (BitVec.ofNat 24 w) with | .ok i => some i | .error _ => none
  else if nbits ≤ 64 then
    match decodePkt (BitVec.ofNat 64 (w % 2 ^ nbits)) with | .ok i => some i | .error _ => none
  else none

/-- The encoder: the packet word of R71, and the 24-bit pattern each rule of R300 to R339 gives. -/
def encode : Instr → Encoded
  | .pktSrcGpio length data crc => .pkt64 (pktWord Config.srcGpio length data crc)
  | .ampwThermalWrn => .ampw24 0x20200A#24
  | .ampwSpkMonThresh => .ampw24 0x203158#24
  | .ampwSpkMonLoad => .ampw24 0x203208#24
  | .ampwSpkMonDur => .ampw24 0x203302#24
  | .ampwErrorMonCtl => .ampw24 0x203701#24
  | .ampwPcmModeCfg => .ampw24 0x2040D9#24
  | .ampwPcmClkSetup => .ampw24 0x204108#24
  | .ampwPcmSampleRate => .ampw24 0x204288#24
  | .ampwPcmTxCtl1 => .ampw24 0x204410#24
  | .ampwPcmTxCtl2 => .ampw24 0x204514#24
  | .ampwPcmHizCtl1 => .ampw24 0x2050FF#24
  | .ampwPcmHizCtl2 => .ampw24 0x2051FF#24
  | .ampwPcmHizCtl3 => .ampw24 0x2052FF#24
  | .ampwPcmHizCtl4 => .ampw24 0x2053FF#24
  | .ampwPcmHizCtl5 => .ampw24 0x2054FF#24
  | .ampwPcmHizCtl6 => .ampw24 0x2055FF#24
  | .ampwPcmHizCtl7 => .ampw24 0x2056FF#24
  | .ampwPcmHizCtl8 => .ampw24 0x2057FF#24
  | .ampwPcmRxSrc1 => .ampw24 0x205800#24
  | .ampwPcmRxSrc2 => .ampw24 0x205910#24
  | .ampwPcmTxDrvStr => .ampw24 0x205C01#24
  | .ampwPcmTxSrcEn => .ampw24 0x205D03#24
  | .ampwPcmRxEn => .ampw24 0x205E01#24
  | .ampwPcmTxEn => .ampw24 0x205F01#24
  | .ampwSpkVolCtl => .ampw24 0x209000#24
  | .ampwSpkChCfg => .ampw24 0x209102#24
  | .ampwSpkAmpOutCfg => .ampw24 0x209203#24
  | .ampwSpkAmpSsmCfg => .ampw24 0x209301#24
  | .ampwSpkAmpEdgeRateCtl => .ampw24 0x20940F#24
  | .ampwSpkChPinkNoiseEn => .ampw24 0x209E00#24
  | .ampwSpkChAmpEn => .ampw24 0x209F01#24
  | .ampwIvDataDspCtl => .ampw24 0x20A010#24
  | .ampwIvDataEn => .ampw24 0x20A703#24
  | .ampwBrwnoutProtAlcThresh => .ampw24 0x20E004#24
  | .ampwBrwnoutProtAlcRates => .ampw24 0x20E120#24
  | .ampwBrwnoutProtAlcAttn => .ampw24 0x20E206#24
  | .ampwBrwnoutProtAlcRelease => .ampw24 0x20E302#24
  | .ampwBrwnout => .ampw24 0x20E433#24
  | .ampwBrwnoutProtAlcInfHoldRelease => .ampw24 0x20EE00#24
  | .ampwBrwnoutProtAlcEn => .ampw24 0x20EF00#24

end Sys2Proof
end

