-- ==== Sys2Proof/Machine/State.lean ====
section
/-!
DEFINITION. The state of the whole system as plain data: the two boards, the master's and the slave's own
state, the amplifier's registers, the bus and the model's marks (10_state.md R24 to R37), the user's moves
to come, and the reasons a step can stop (60_exceptions.md R190, R191).
-/

namespace Sys2Proof.Machine

/-- The level of a pin (R25, R29). -/
inductive Level where
  | low | high
  deriving DecidableEq, Repr

/-- A board's role, fixed at its boot (R24). -/
inductive Role where
  | master | slave
  deriving DecidableEq, Repr

/-- The state of an LED (R26). -/
inductive LedState where
  | on | off
  deriving DecidableEq, Repr

/-- The LEDs of a board: the two the source names by colour and the one a packet drives, taken as an LED of
its own (R26, D8; DEDUCED, log 21). -/
inductive LedName where
  | blue | green | ledRx
  deriving DecidableEq, Repr

/-- The position of jumper JP41 (R36). -/
inductive Jumper where
  | pos12 | pos23
  deriving DecidableEq, Repr

/-- The two boards. The source gives them no number; these names are the model's (R202; DESIGN CHOICE,
log 24). -/
inductive BoardId where
  | one | two
  deriving DecidableEq, Repr

/-- One board. `none` in a field is the spec's "no value": before boot for `role` (R24), before the user
sets it for `p06` (R25), before a rule writes it for the outputs (R39, R40; DEDUCED, log 7). -/
structure Board where
  role : Option Role
  p06 : Option Level
  jp41 : Jumper
  blue : Option LedState
  green : Option LedState
  ledRx : Option LedState
  p05 : Option Level
  deriving DecidableEq, Repr

/-- A board that has not booted and to which the user has done nothing: JP41 in its default position
(R36), nothing else has a value (R39). -/
def Board.reset : Board := ⟨none, none, .pos12, none, none, none, none⟩

/-- The agents that drive a line (R14, R101 to R104). -/
inductive Agent where
  | master | slave | amp
  deriving DecidableEq, Repr

/-- The two data lines (R35). -/
inductive LineName where
  | txm | rxm
  deriving DecidableEq, Repr

/-- The content of one channel of one line in one frame (R35, R99). -/
inductive LineCell where
  | hiZ
  | driven (agent : Agent) (v : Sample)
  deriving DecidableEq, Repr

/-- The eight channels of one line in one frame (R35, R94). -/
structure Lane where
  c0 : LineCell
  c1 : LineCell
  c2 : LineCell
  c3 : LineCell
  c4 : LineCell
  c5 : LineCell
  c6 : LineCell
  c7 : LineCell
  deriving DecidableEq, Repr

/-- One frame of both lines (R35). -/
structure FrameCells where
  txm : Lane
  rxm : Lane
  deriving DecidableEq, Repr

/-- A packet word waiting in the slave, and in how many frames it is still to be placed (R30). -/
structure TxPending where
  word : PktWord
  left : Nat
  deriving DecidableEq, Repr

/-- A move of the user or of the test harness, one line of the scenario syntax (R82, R205). -/
inductive Event where
  /-- `set b.P0_6 Low|High` (R25, R131). -/
  | setP06 (b : BoardId) (l : Level)
  /-- `set b.JP41` (R36). -/
  | setJp41 (b : BoardId) (p : Jumper)
  /-- `boot b` (R120). -/
  | boot (b : BoardId)
  /-- `press b.SW2` (R124, R128). -/
  | pressSw2 (b : BoardId)
  /-- `frame`: one TDM frame elapses (R100); a given Boolean fixes that frame's `send_now`. -/
  | frame (sendNow : Option Bool)
  /-- `inject RXM.PAIR_1 <word>` (R82). -/
  | inject (w : PktWord)
  deriving DecidableEq, Repr

/-- The amplifier's registers: (address, value) pairs, addresses strictly rising, none equal to what an
unlisted address reads as, its power-up value (R31, R167). -/
abbrev Memory := List Host.Cell

/-- The state that may hold no value (R39, R40). -/
inductive StateName where
  | amp (a : RegAddr)
  | led (b : BoardId) (c : LedName)
  | p05 (b : BoardId)
  deriving DecidableEq, Repr

/-- The fault records of R190 and R37. -/
inductive FaultRecord where
  /-- Two agents drive channel `c` of line `l` in frame `n` (R105). -/
  | busContention (l : LineName) (n : Nat) (c : Nat)
  /-- A rule reads state that holds no value; no rule does (R40). -/
  | readOfUnspecified (name : StateName)
  deriving DecidableEq, Repr

/-- The state of the system, as the spec counts it (R15): INVENTORY.md lists every field with the rule that
names it. `i2cReady`, `i2cQueue` and `rx` are the model's own (DESIGN CHOICE, log 4, 3); the RT685's
shared-clock registers are no state (DEDUCED, log 34), nor is the schedule of user events (R15). -/
structure System where
  board1 : Board
  board2 : Board
  i2sActive : Bool
  swNext : Byte
  txPending : Option TxPending
  amp : Memory
  ampInitIdx : Nat
  i2cReady : Bool
  i2cQueue : List AmpWord
  frameNo : Nat
  history : List FrameCells
  rx : Option PktWord
  faults : List FaultRecord
  refused : Bool
  deriving DecidableEq, Repr

/-- What a run is given, no state of the system: the user's moves to come, over which a claim quantifies (R15;
DESIGN CHOICE, log 2), the word the test harness puts in the next frame (R82; log 33), the premise `NoNoise`
(R107; log 15), and the index of the free values (R12; log 13). -/
structure RunInputs where
  schedule : List Event
  inject : Option PktWord
  noNoise : Bool
  draws : Nat
  deriving DecidableEq, Repr

/-- What a step takes, one argument: the state of the system and, beside it, what the run is given (R15;
DESIGN CHOICE, log 2). -/
structure State extends System where
  run : RunInputs
  deriving DecidableEq, Repr

/-- The system before anything is booted (R39): every value of R39, and for the model's own fields the values
log 3 and 4 name (DESIGN CHOICE each). -/
def System.reset : System where
  board1 := Board.reset
  board2 := Board.reset
  i2sActive := false
  swNext := 0xFF#8
  txPending := none
  amp := []
  ampInitIdx := 0
  i2cReady := false
  i2cQueue := []
  frameNo := 0
  history := []
  rx := none
  faults := []
  refused := false

/-- The system at reset in a run to which nothing is given (DESIGN CHOICE, log 2, 13, 15, 33). -/
def State.reset : State := { System.reset with run := ⟨[], none, false, 0⟩ }

/-- The requirements whose failure means that a step does not exist (the `require` lines of the spec). -/
inductive Requirement where
  /-- P0_6 has been set by the user before boot (R120, R212 item 5). -/
  | p06Set (b : BoardId)
  /-- P0_6 of each board is set before any board boots (R205, R212 item 5). -/
  | p06BeforeBoot (b : BoardId)
  /-- One boot per board per run (R211). -/
  | notBootedYet (b : BoardId)
  /-- The board whose Switch 2 is pressed has a role (R124, R128). -/
  | booted (b : BoardId)
  /-- JP41 is set before any board boots and is constant after that (R36, R205, R212). -/
  | jumperBeforeBoot (b : BoardId)
  /-- JP41 of every booted board is in position 2-3 before the bus may carry anything (R212 item 2, R215
  hazard 9; log 17). -/
  | jumpersRouted
  /-- The master's Switch 2 needs all 40 register writes done (R60, R124). -/
  | ampConfigured
  /-- A frame needs the bus active (R100). -/
  | busActive
  /-- The step is the master's and no board has that role (R95, R150, R165). -/
  | masterBooted
  /-- A register write needs the I2C port initialised (R165). -/
  | i2cInitialised
  deriving DecidableEq, Repr

/-- The faults. `marked` is the state with the fault recorded (R37, R190). -/
inductive Fault where
  /-- Raised by the frame step's `CheckContention` (R105). Safe: the source does not say what two drivers
  in one position do. -/
  | busContention (l : LineName) (n : Nat) (c : Nat) (marked : State)
  /-- In the closed list of R190 and raised by no step, since no rule reads state that holds no value (R40; the
  obligation NoStepEndsInReadOfUnspecified). Safe. -/
  | readOfUnspecified (name : StateName) (marked : State)
  /-- Raised by every step of a state that already holds a fault record (R190, R195). Safe. -/
  | alreadyFaulted (marked : State)
  deriving DecidableEq, Repr

/-- The refusals. `marked` is the state with the mark `refused` set (R37, R191). All are safe: nothing is
claimed of what the hardware does. -/
inductive Refusal where
  /-- An instruction with no meaning yet: raised by the dispatch alone. Safe. -/
  | notModelled (mnemonic : String)
  /-- Raised by a boot that would give both boards the same role (R122). Safe. -/
  | roleClash (marked : State)
  /-- Raised by `set b.P0_6` on a booted board (R131). Safe. -/
  | roleChangeAfterBoot (marked : State)
  /-- Raised by Switch 2 on a master that already transmits (R125). Safe. -/
  | masterPressWhileActive (marked : State)
  /-- Raised by Switch 2 on the slave before the master transmits (R128). Safe. -/
  | slavePressWhileBusInactive (marked : State)
  /-- Raised by Switch 2 on the slave while its packet is waiting (R128). Safe. -/
  | slavePressWhilePending (marked : State)
  /-- Raised by the reception of a valid packet whose source is not `SRC_GPIO` (R149, R151). Safe. -/
  | unimplementedSource (source : Nibble) (marked : State)
  /-- Raised by a valid `SRC_GPIO` packet other than the two exemplified (R150). Safe. -/
  | unspecifiedGpioPayload (marked : State)
  /-- Raised by a register write to an address outside the table (R50, R165). Safe. -/
  | unlistedAmpRegister (a : RegAddr) (marked : State)
  /-- Raised by a frame while the amplifier's registers differ from the table, by another value or by none
  (R170; DESIGN CHOICE, log 9). Safe. -/
  | unknownAmpConfig (marked : State)
  /-- Raised by a step whose requirement fails, so that the step does not exist (DEDUCED, log 5). Safe. -/
  | notEnabled (r : Requirement)
  /-- Raised by every step of a state whose mark `refused` is set (R191). Safe. -/
  | alreadyRefused (marked : State)
  deriving DecidableEq, Repr

end Sys2Proof.Machine
end

