-- ==== Sys2Proof/Machine/Ops.lean ====
section
/-!
DEFINITION. The named operations over the state: boards and roles, the amplifier's register space as a
canonical memory (20_memory.md R50 to R52), the register write (43_max98388.md R165), and the two ways a
step stops (60_exceptions.md R190, R191). The hardware takes no exceptions: nothing is saved and no
control moves (R195, R196), so `refuse` and `raise` stand where a processor's exception entry would.
-/

namespace Sys2Proof.Machine

/-- The outcome of a step of this machine. -/
abbrev Result := Host.Outcome State Fault Refusal

/-- What follows a step that answers a next state; a stop stays a stop. -/
def andThen (o : Result) (f : State → Result) : Result :=
  match o with
  | .next s => f s
  | .fault r => .fault r
  | .refused r => .refused r

/-! ### Marks and stops -/

/-- The state with the mark `refused` set (R37, R191). -/
def State.markRefused (s : State) : State := { s with refused := true }

/-- The state with a fault recorded (R37, R190). -/
def State.markFault (s : State) (f : FaultRecord) : State := { s with faults := s.faults ++ [f] }

/-- The step is refused for a reason of R191; the outcome carries the marked state. -/
def refuse (why : State → Refusal) (s : State) : Result := .refused (why s.markRefused)

/-- The step ends in a fault of R190, recorded as `f`; the outcome carries the marked state. -/
def raise (f : FaultRecord) (why : State → Fault) (s : State) : Result := .fault (why (s.markFault f))

/-- The step does not exist, because a `require` of its rule fails (DEDUCED, log 5). -/
def notEnabled (r : Requirement) : Result := .refused (.notEnabled r)

/-- The next draw of the run: the counter that indexes the free values moves on (R12; DESIGN CHOICE,
log 13). -/
def State.drawn (s : State) : State := { s with run.draws := s.run.draws + 1 }

/-! ### Boards and roles -/

/-- The other board. -/
def otherBoard : BoardId → BoardId
  | .one => .two
  | .two => .one

/-- A board of the state. -/
def State.board (s : State) : BoardId → Board
  | .one => s.board1
  | .two => s.board2

/-- The state with a board replaced. -/
def State.setBoard (s : State) (b : BoardId) (x : Board) : State :=
  match b with
  | .one => { s with board1 := x }
  | .two => { s with board2 := x }

/-- `role(b)` (R24). -/
def State.role (s : State) (b : BoardId) : Option Role := (s.board b).role

/-- `led(b, c)` (R26). -/
def Board.led (x : Board) : LedName → Option LedState
  | .blue => x.blue
  | .green => x.green
  | .ledRx => x.ledRx

/-- A board with `led(b, c) <- v` (R26). -/
def Board.setLed (x : Board) (c : LedName) (v : LedState) : Board :=
  match c with
  | .blue => { x with blue := some v }
  | .green => { x with green := some v }
  | .ledRx => { x with ledRx := some v }

/-- `led(b, c)` of the state (R26). -/
def State.led (s : State) (b : BoardId) (c : LedName) : Option LedState := (s.board b).led c

/-- `led(b, c) <- v` (R26). -/
def State.setLed (s : State) (b : BoardId) (c : LedName) (v : LedState) : State :=
  s.setBoard b ((s.board b).setLed c v)

/-- The boards that have a role. -/
def State.boardsWith (s : State) (r : Role) : List BoardId :=
  [BoardId.one, BoardId.two].filter fun b => s.role b == some r

/-- `M`, the board whose role is `Master`, where there is one (10_state.md, its opening). -/
def State.masterBoard (s : State) : Option BoardId := (s.boardsWith .master).head?

/-- `S`, the board whose role is `Slave`, where there is one. -/
def State.slaveBoard (s : State) : Option BoardId := (s.boardsWith .slave).head?

/-- Some board has booted: the user's settings of R212, items 1 to 5, are due before that. -/
def State.anyBooted (s : State) : Bool := (s.role .one).isSome || (s.role .two).isSome

/-- JP41 is in position 2-3 on every booted board (R212 item 2). On which board or boards it must be so is not
stated (R36, N8): that it is every booted board is the model's choice (DESIGN CHOICE, log 17). -/
def State.jumpersRouted (s : State) : Bool :=
  (s.board1.role.isNone || s.board1.jp41 == .pos23) && (s.board2.role.isNone || s.board2.jp41 == .pos23)

/-! ### The amplifier's register space -/

/-- What register `a` of the memory holds; `none` is "no value" (R31, R40, R167). -/
def Memory.read : Memory → Nat → Option Byte
  | [], a => ampPowerUp a
  | (b, v) :: m, a => if b = a then some v else Memory.read m a

/-- The list with the entry (a, v) in its place. -/
def Memory.insert : Memory → Nat → Byte → Memory
  | [], a, v => [(a, v)]
  | (b, w) :: m, a, v =>
    if a < b then (a, v) :: (b, w) :: m
    else if a = b then (a, v) :: m
    else (b, w) :: Memory.insert m a v

/-- `amp[a] <- v`; writing the power-up value removes the entry, so that equal memories are equal lists. -/
def Memory.write (m : Memory) (a : Nat) (v : Byte) : Memory :=
  if ampPowerUp a = some v then m.filter (fun c => c.1 != a) else Memory.insert m a v

/-- Strictly rising addresses. -/
def Memory.rising : Memory → Bool
  | [] => true
  | [_] => true
  | c :: d :: m => c.1 < d.1 && Memory.rising (d :: m)

/-- The canonical form: addresses strictly rising, each one of the 40, no entry equal to what an unlisted
address reads as. -/
def Memory.wf (m : Memory) : Bool :=
  Memory.rising m && m.all (fun c => ampListed c.1 && ampPowerUp c.1 != some c.2)

/-- `MemRead(a, 1)`, for the observation alone (R11): `amp[a]`; where the register holds no value (R40), a free
value (DESIGN CHOICE, log 37). What a read of an address outside the 40 does the spec does not say, since R50
and R191 speak of a write; it answers nothing (DESIGN CHOICE, log 35). No step reads a register this way. -/
def memRead (s : State) (a : RegAddr) : Option Byte :=
  if ampListed a.toNat then some ((Memory.read s.amp a.toNat).getD (Config.ampUnspecified a)) else none

/-- `MemWrite(a, 1, v)` (R11, R51) and the count of the writes performed, at most 40 (R32, R165, R168;
DEDUCED, log 18). -/
def State.ampStored (s : State) (a : RegAddr) (v : Byte) : State :=
  { s with amp := Memory.write s.amp a.toNat v, ampInitIdx := min Config.ampRegs (s.ampInitIdx + 1) }

/-- `AMPW(a, v)`, one register write by the master over I2C (R165); it cannot fail on the wire (R51,
DEDUCED, log 19). -/
def ampWrite (a : RegAddr) (v : Byte) (s : State) : Result :=
  if s.masterBoard.isNone then notEnabled .masterBooted
  else if !s.i2cReady then notEnabled .i2cInitialised
  else if ampListed a.toNat then .next (s.ampStored a v)
  else refuse (.unlistedAmpRegister a) s

/-- A register write that is no row of the table is the operation of R165 all the same: another value at
a listed address is written, an unlisted address is refused (R80; DEDUCED, log 26). -/
def ampOther (w : AmpWord) (s : State) : Result := ampWrite (ampAddr w) (ampValue w) s

/-- `amp[]` equals the table (R170): every register of a row holds the row's value. A register that holds no
value (R40) holds no row's value; its content is not read. -/
def State.ampIsTable (s : State) : Bool :=
  ampTable.all fun r => Memory.read s.amp r.addr.toNat == some r.value

/-- `amp_output_enabled` (R170). -/
def State.ampOutputEnabled (s : State) : Bool :=
  s.ampInitIdx == Config.ampRegs && Config.ampGlobalEn

end Sys2Proof.Machine
end

