-- ==== Sys2Proof/Machine/AmpPcm.lean ====
section
/-!
DEFINITION. The meanings of the register writes to the PCM interface registers (43_max98388.md R305 to
R323): format and clocks (R171), slots (R173), high impedance (R175), audio input (R172), output enables
(R174). Each is the one operation of R165 at the row's address with the row's value.
-/

namespace Sys2Proof.Machine

/-- `AMPW.PCM_MODE_CFG` (R305): `amp[0x2040] <- 0xD9`. -/
def execAmpwPcmModeCfg (s : State) : Result := ampWrite 0x2040#16 0xD9#8 s

/-- `AMPW.PCM_CLK_SETUP` (R306): `amp[0x2041] <- 0x08`. -/
def execAmpwPcmClkSetup (s : State) : Result := ampWrite 0x2041#16 0x08#8 s

/-- `AMPW.PCM_SAMPLE_RATE` (R307): `amp[0x2042] <- 0x88`. -/
def execAmpwPcmSampleRate (s : State) : Result := ampWrite 0x2042#16 0x88#8 s

/-- `AMPW.PCM_TX_CTL1` (R308): `amp[0x2044] <- 0x10`. -/
def execAmpwPcmTxCtl1 (s : State) : Result := ampWrite 0x2044#16 0x10#8 s

/-- `AMPW.PCM_TX_CTL2` (R309): `amp[0x2045] <- 0x14`. -/
def execAmpwPcmTxCtl2 (s : State) : Result := ampWrite 0x2045#16 0x14#8 s

/-- `AMPW.PCM_HIZ_CTL1` (R310): `amp[0x2050] <- 0xFF`. -/
def execAmpwPcmHizCtl1 (s : State) : Result := ampWrite 0x2050#16 0xFF#8 s

/-- `AMPW.PCM_HIZ_CTL2` (R311): `amp[0x2051] <- 0xFF`. -/
def execAmpwPcmHizCtl2 (s : State) : Result := ampWrite 0x2051#16 0xFF#8 s

/-- `AMPW.PCM_HIZ_CTL3` (R312): `amp[0x2052] <- 0xFF`. -/
def execAmpwPcmHizCtl3 (s : State) : Result := ampWrite 0x2052#16 0xFF#8 s

/-- `AMPW.PCM_HIZ_CTL4` (R313): `amp[0x2053] <- 0xFF`. -/
def execAmpwPcmHizCtl4 (s : State) : Result := ampWrite 0x2053#16 0xFF#8 s

/-- `AMPW.PCM_HIZ_CTL5` (R314): `amp[0x2054] <- 0xFF`. -/
def execAmpwPcmHizCtl5 (s : State) : Result := ampWrite 0x2054#16 0xFF#8 s

/-- `AMPW.PCM_HIZ_CTL6` (R315): `amp[0x2055] <- 0xFF`. -/
def execAmpwPcmHizCtl6 (s : State) : Result := ampWrite 0x2055#16 0xFF#8 s

/-- `AMPW.PCM_HIZ_CTL7` (R316): `amp[0x2056] <- 0xFF`. -/
def execAmpwPcmHizCtl7 (s : State) : Result := ampWrite 0x2056#16 0xFF#8 s

/-- `AMPW.PCM_HIZ_CTL8` (R317): `amp[0x2057] <- 0xFF`. -/
def execAmpwPcmHizCtl8 (s : State) : Result := ampWrite 0x2057#16 0xFF#8 s

/-- `AMPW.PCM_RX_SRC1` (R318): `amp[0x2058] <- 0x00`. -/
def execAmpwPcmRxSrc1 (s : State) : Result := ampWrite 0x2058#16 0x00#8 s

/-- `AMPW.PCM_RX_SRC2` (R319): `amp[0x2059] <- 0x10`. -/
def execAmpwPcmRxSrc2 (s : State) : Result := ampWrite 0x2059#16 0x10#8 s

/-- `AMPW.PCM_TX_DRV_STR` (R320): `amp[0x205C] <- 0x01`. -/
def execAmpwPcmTxDrvStr (s : State) : Result := ampWrite 0x205C#16 0x01#8 s

/-- `AMPW.PCM_TX_SRC_EN` (R321): `amp[0x205D] <- 0x03`. -/
def execAmpwPcmTxSrcEn (s : State) : Result := ampWrite 0x205D#16 0x03#8 s

/-- `AMPW.PCM_RX_EN` (R322): `amp[0x205E] <- 0x01`. -/
def execAmpwPcmRxEn (s : State) : Result := ampWrite 0x205E#16 0x01#8 s

/-- `AMPW.PCM_TX_EN` (R323): `amp[0x205F] <- 0x01`. -/
def execAmpwPcmTxEn (s : State) : Result := ampWrite 0x205F#16 0x01#8 s

end Sys2Proof.Machine
end

