-- ==== Sys2Proof/Machine/AmpProtection.lean ====
section
/-!
DEFINITION. The meanings of the register writes to the thermal, monitor and brown-out registers
(43_max98388.md R300 to R304, R333 to R339), whose values the model holds and gives no further effect
(R176). Each is the one operation of R165 at the row's address with the row's value.
-/

namespace Sys2Proof.Machine

/-- `AMPW.THERMAL_WRN` (R300): `amp[0x2020] <- 0x0A`. -/
def execAmpwThermalWrn (s : State) : Result := ampWrite 0x2020#16 0x0A#8 s

/-- `AMPW.SPK_MON_THRESH` (R301): `amp[0x2031] <- 0x58`. -/
def execAmpwSpkMonThresh (s : State) : Result := ampWrite 0x2031#16 0x58#8 s

/-- `AMPW.SPK_MON_LOAD` (R302): `amp[0x2032] <- 0x08`. -/
def execAmpwSpkMonLoad (s : State) : Result := ampWrite 0x2032#16 0x08#8 s

/-- `AMPW.SPK_MON_DUR` (R303): `amp[0x2033] <- 0x02`. -/
def execAmpwSpkMonDur (s : State) : Result := ampWrite 0x2033#16 0x02#8 s

/-- `AMPW.ERROR_MON_CTL` (R304): `amp[0x2037] <- 0x01`. -/
def execAmpwErrorMonCtl (s : State) : Result := ampWrite 0x2037#16 0x01#8 s

/-- `AMPW.BRWNOUT_PROT_ALC_THRESH` (R333): `amp[0x20E0] <- 0x04`. -/
def execAmpwBrwnoutProtAlcThresh (s : State) : Result := ampWrite 0x20E0#16 0x04#8 s

/-- `AMPW.BRWNOUT_PROT_ALC_RATES` (R334): `amp[0x20E1] <- 0x20`. -/
def execAmpwBrwnoutProtAlcRates (s : State) : Result := ampWrite 0x20E1#16 0x20#8 s

/-- `AMPW.BRWNOUT_PROT_ALC_ATTN` (R335): `amp[0x20E2] <- 0x06`. -/
def execAmpwBrwnoutProtAlcAttn (s : State) : Result := ampWrite 0x20E2#16 0x06#8 s

/-- `AMPW.BRWNOUT_PROT_ALC_RELEASE` (R336): `amp[0x20E3] <- 0x02`. -/
def execAmpwBrwnoutProtAlcRelease (s : State) : Result := ampWrite 0x20E3#16 0x02#8 s

/-- `AMPW.BRWNOUT` (R337): `amp[0x20E4] <- 0x33`. -/
def execAmpwBrwnout (s : State) : Result := ampWrite 0x20E4#16 0x33#8 s

/-- `AMPW.BRWNOUT_PROT_ALC_INF_HOLD_RELEASE` (R338): `amp[0x20EE] <- 0x00`. -/
def execAmpwBrwnoutProtAlcInfHoldRelease (s : State) : Result := ampWrite 0x20EE#16 0x00#8 s

/-- `AMPW.BRWNOUT_PROT_ALC_EN` (R339): `amp[0x20EF] <- 0x00`. -/
def execAmpwBrwnoutProtAlcEn (s : State) : Result := ampWrite 0x20EF#16 0x00#8 s

end Sys2Proof.Machine
end

