-- ==== Sys2Proof/Machine/AmpSpeaker.lean ====
section
/-!
DEFINITION. The meanings of the register writes to the speaker path and the IV data registers
(43_max98388.md R324 to R332; R169, R174, R176). Each is the one operation of R165 at the row's address with
the row's value.
-/

namespace Sys2Proof.Machine

/-- `AMPW.SPK_VOL_CTL` (R324): `amp[0x2090] <- 0x00`. -/
def execAmpwSpkVolCtl (s : State) : Result := ampWrite 0x2090#16 0x00#8 s

/-- `AMPW.SPK_CH_CFG` (R325): `amp[0x2091] <- 0x02`. -/
def execAmpwSpkChCfg (s : State) : Result := ampWrite 0x2091#16 0x02#8 s

/-- `AMPW.SPK_AMP_OUT_CFG` (R326): `amp[0x2092] <- 0x03`. -/
def execAmpwSpkAmpOutCfg (s : State) : Result := ampWrite 0x2092#16 0x03#8 s

/-- `AMPW.SPK_AMP_SSM_CFG` (R327): `amp[0x2093] <- 0x01`. -/
def execAmpwSpkAmpSsmCfg (s : State) : Result := ampWrite 0x2093#16 0x01#8 s

/-- `AMPW.SPK_AMP_EDGE_RATE_CTL` (R328): `amp[0x2094] <- 0x0F`. -/
def execAmpwSpkAmpEdgeRateCtl (s : State) : Result := ampWrite 0x2094#16 0x0F#8 s

/-- `AMPW.SPK_CH_PINK_NOISE_EN` (R329): `amp[0x209E] <- 0x00`. -/
def execAmpwSpkChPinkNoiseEn (s : State) : Result := ampWrite 0x209E#16 0x00#8 s

/-- `AMPW.SPK_CH_AMP_EN` (R330): `amp[0x209F] <- 0x01`. -/
def execAmpwSpkChAmpEn (s : State) : Result := ampWrite 0x209F#16 0x01#8 s

/-- `AMPW.IV_DATA_DSP_CTL` (R331): `amp[0x20A0] <- 0x10`. -/
def execAmpwIvDataDspCtl (s : State) : Result := ampWrite 0x20A0#16 0x10#8 s

/-- `AMPW.IV_DATA_EN` (R332): `amp[0x20A7] <- 0x03`. -/
def execAmpwIvDataEn (s : State) : Result := ampWrite 0x20A7#16 0x03#8 s

end Sys2Proof.Machine
end

