-- ==== Sys2Proof/Machine/Packet.lean ====
section
/-!
DEFINITION. The packet's meaning: the master's response to what it receives in `PAIR_1` of `RXM`
(42_data_packet.md R148 to R151).
-/

namespace Sys2Proof.Machine

/-- `led(M, LED_RX) <- v` (R26, R150). -/
def setMasterLed (v : LedState) (s : State) : Result :=
  match s.masterBoard with
  | some b => .next (s.setLed b .ledRx v)
  | none => notEnabled .masterBooted

/-- `GpioAction(length, data)` (R150): the action sets a level, it does not flip the LED; that data 0x00 sets
it off is the evident counterpart (DEDUCED, log 21). -/
def gpioAction (length : Byte) (data : PktData) (s : State) : Result :=
  if length = 0x01#8 ∧ (dataBytes data).drop 1 = [0x00#8, 0x00#8, 0x00#8, 0x00#8] then
    if dataByte data 0 = 0xFF#8 then setMasterLed .on s
    else if dataByte data 0 = 0x00#8 then setMasterLed .off s
    else refuse .unspecifiedGpioPayload s
  else refuse .unspecifiedGpioPayload s

/-- `PKT.SRC_GPIO` (R149, R150): a packet with a bad CRC is ignored (R148; DEDUCED, log 20). -/
def execPktSrcGpio (length : Byte) (data : PktData) (crc : Byte) (s : State) : Result :=
  if crcOk (pktWord Config.srcGpio length data crc) then gpioAction length data s else .next s

/-- The received words that are no row of the table, in the order of R149: a word with another start
nibble is ignored (R143), one with a bad CRC too (R148), a valid one with another source is refused
(R151). -/
def packetOther (w : PktWord) (s : State) : Result :=
  if pktStart w ≠ Config.startNibble then .next s
  else if !crcOk w then .next s
  else refuse (.unimplementedSource (pktSource w)) s

/-- The end of the frame step: the pair has been received, `AmpReceive` changes no state (R108), and
`frame_no <- n + 1` (R100). -/
def endFrame (s : State) : Result := .next { s with frameNo := s.frameNo + 1 }

end Sys2Proof.Machine
end

