-- ==== Sys2Proof/Machine/Dispatch.lean ====
section
/-!
DEFINITION. One arm per constructor of Instr: the meaning of each encoded unit (30_encoding.md R77).
-/

namespace Sys2Proof.Machine

open Sys2Proof

def exec (i : Instr) (s : State) : Host.Outcome State Fault Refusal :=
  match i with
  | .pktSrcGpio length data crc => Sys2Proof.Machine.execPktSrcGpio length data crc s
  | .ampwThermalWrn => Sys2Proof.Machine.execAmpwThermalWrn s
  | .ampwSpkMonThresh => Sys2Proof.Machine.execAmpwSpkMonThresh s
  | .ampwSpkMonLoad => Sys2Proof.Machine.execAmpwSpkMonLoad s
  | .ampwSpkMonDur => Sys2Proof.Machine.execAmpwSpkMonDur s
  | .ampwErrorMonCtl => Sys2Proof.Machine.execAmpwErrorMonCtl s
  | .ampwPcmModeCfg => Sys2Proof.Machine.execAmpwPcmModeCfg s
  | .ampwPcmClkSetup => Sys2Proof.Machine.execAmpwPcmClkSetup s
  | .ampwPcmSampleRate => Sys2Proof.Machine.execAmpwPcmSampleRate s
  | .ampwPcmTxCtl1 => Sys2Proof.Machine.execAmpwPcmTxCtl1 s
  | .ampwPcmTxCtl2 => Sys2Proof.Machine.execAmpwPcmTxCtl2 s
  | .ampwPcmHizCtl1 => Sys2Proof.Machine.execAmpwPcmHizCtl1 s
  | .ampwPcmHizCtl2 => Sys2Proof.Machine.execAmpwPcmHizCtl2 s
  | .ampwPcmHizCtl3 => Sys2Proof.Machine.execAmpwPcmHizCtl3 s
  | .ampwPcmHizCtl4 => Sys2Proof.Machine.execAmpwPcmHizCtl4 s
  | .ampwPcmHizCtl5 => Sys2Proof.Machine.execAmpwPcmHizCtl5 s
  | .ampwPcmHizCtl6 => Sys2Proof.Machine.execAmpwPcmHizCtl6 s
  | .ampwPcmHizCtl7 => Sys2Proof.Machine.execAmpwPcmHizCtl7 s
  | .ampwPcmHizCtl8 => Sys2Proof.Machine.execAmpwPcmHizCtl8 s
  | .ampwPcmRxSrc1 => Sys2Proof.Machine.execAmpwPcmRxSrc1 s
  | .ampwPcmRxSrc2 => Sys2Proof.Machine.execAmpwPcmRxSrc2 s
  | .ampwPcmTxDrvStr => Sys2Proof.Machine.execAmpwPcmTxDrvStr s
  | .ampwPcmTxSrcEn => Sys2Proof.Machine.execAmpwPcmTxSrcEn s
  | .ampwPcmRxEn => Sys2Proof.Machine.execAmpwPcmRxEn s
  | .ampwPcmTxEn => Sys2Proof.Machine.execAmpwPcmTxEn s
  | .ampwSpkVolCtl => Sys2Proof.Machine.execAmpwSpkVolCtl s
  | .ampwSpkChCfg => Sys2Proof.Machine.execAmpwSpkChCfg s
  | .ampwSpkAmpOutCfg => Sys2Proof.Machine.execAmpwSpkAmpOutCfg s
  | .ampwSpkAmpSsmCfg => Sys2Proof.Machine.execAmpwSpkAmpSsmCfg s
  | .ampwSpkAmpEdgeRateCtl => Sys2Proof.Machine.execAmpwSpkAmpEdgeRateCtl s
  | .ampwSpkChPinkNoiseEn => Sys2Proof.Machine.execAmpwSpkChPinkNoiseEn s
  | .ampwSpkChAmpEn => Sys2Proof.Machine.execAmpwSpkChAmpEn s
  | .ampwIvDataDspCtl => Sys2Proof.Machine.execAmpwIvDataDspCtl s
  | .ampwIvDataEn => Sys2Proof.Machine.execAmpwIvDataEn s
  | .ampwBrwnoutProtAlcThresh => Sys2Proof.Machine.execAmpwBrwnoutProtAlcThresh s
  | .ampwBrwnoutProtAlcRates => Sys2Proof.Machine.execAmpwBrwnoutProtAlcRates s
  | .ampwBrwnoutProtAlcAttn => Sys2Proof.Machine.execAmpwBrwnoutProtAlcAttn s
  | .ampwBrwnoutProtAlcRelease => Sys2Proof.Machine.execAmpwBrwnoutProtAlcRelease s
  | .ampwBrwnout => Sys2Proof.Machine.execAmpwBrwnout s
  | .ampwBrwnoutProtAlcInfHoldRelease => Sys2Proof.Machine.execAmpwBrwnoutProtAlcInfHoldRelease s
  | .ampwBrwnoutProtAlcEn => Sys2Proof.Machine.execAmpwBrwnoutProtAlcEn s

end Sys2Proof.Machine
end

