-- ==== Sys2Proof/Machine/Bus.lean ====
section
/-!
DEFINITION. The TDM bus: who drives which cell, the contention check, reception, and the frame step up to
the master's reaction (40_i2s_bus.md R99 to R109).
-/

namespace Sys2Proof.Machine

/-- One cell of a lane by its channel number; there are 8 channels (R94). -/
def Lane.get (l : Lane) (c : Nat) : LineCell :=
  match c with
  | 0 => l.c0 | 1 => l.c1 | 2 => l.c2 | 3 => l.c3
  | 4 => l.c4 | 5 => l.c5 | 6 => l.c6 | 7 => l.c7
  | _ => .hiZ

/-- `pair(L, n, k)` of a lane: the cells of channels `2k` and `2k+1` (R94). -/
def Lane.pair (l : Lane) (k : Nat) : LineCell × LineCell :=
  (l.get (pairChannels k).1, l.get (pairChannels k).2)

/-- The lane of a line in a frame. -/
def FrameCells.lane (f : FrameCells) : LineName → Lane
  | .txm => f.txm
  | .rxm => f.rxm

/-- `line(L)[n]` (R35). -/
def State.line (s : State) (l : LineName) (n : Nat) : Option Lane := (s.history[n]?).map (·.lane l)

/-- One agent's drive of one cell in the current frame (R99). -/
structure Drive where
  line : LineName
  channel : Nat
  agent : Agent
  value : Sample
  deriving DecidableEq, Repr

/-- `MasterPlace`: the tone in `PAIR_0` and the master's data in `PAIR_3` of `TXM` (R101, R102), from each
board whose role is `Master`. -/
def masterDrives (s : State) : List Drive :=
  (s.boardsWith .master).flatMap fun _ =>
    [⟨.txm, 0, .master, Config.tone s.run.draws 0⟩, ⟨.txm, 1, .master, Config.tone s.run.draws 1⟩,
     ⟨.txm, 6, .master, Config.mData s.run.draws 6⟩, ⟨.txm, 7, .master, Config.mData s.run.draws 7⟩]

/-- `choose(send_now)`: free, unless the scenario fixes it for this frame (R103, 95_test_vectors.md part 3;
DESIGN CHOICE, log 14). -/
def sendNow (note : Option Bool) (s : State) : Bool := note.getD (Config.sendNow s.run.draws)

/-- The word the slave places in this frame, where it places one (R103). -/
def placedWord (note : Option Bool) (s : State) : Option PktWord :=
  match s.txPending with
  | some p => if sendNow note s && (s.slaveBoard).isSome then some p.word else none
  | none => none

/-- `tx_pending` after this frame (R103). -/
def pendingAfter (note : Option Bool) (s : State) : Option TxPending :=
  match s.txPending with
  | some p =>
    if sendNow note s && (s.slaveBoard).isSome then
      if p.left = 1 then none else some ⟨p.word, p.left - 1⟩
    else some p
  | none => none

/-- The two cells of the slave's pair: the pending packet or idle fill (R103). -/
def slaveCells (note : Option Bool) (s : State) : Sample × Sample :=
  match placedWord note s with
  | some w => wireEncode w
  | none => (Config.idleFill s.run.draws 2, Config.idleFill s.run.draws 3)

/-- `SlavePlace`: both cells of `PAIR_1` of `RXM`, from each board whose role is `Slave` (R103). -/
def slaveDrives (note : Option Bool) (s : State) : List Drive :=
  (s.boardsWith .slave).flatMap fun _ =>
    [⟨.rxm, 2, .slave, (slaveCells note s).1⟩, ⟨.rxm, 3, .slave, (slaveCells note s).2⟩]

/-- `AmpPlace`: voltage and current in the channels of their slots, where the output is enabled (R104,
R173, R174; DEDUCED, log 29). -/
def ampDrives (s : State) : List Drive :=
  if s.ampOutputEnabled then
    [⟨.rxm, slotChannel Config.voltageSlot, .amp, Config.vData s.run.draws⟩,
     ⟨.rxm, slotChannel Config.currentSlot, .amp, Config.iData s.run.draws⟩]
  else []

/-- The drives of one cell. -/
def drivesOf (ds : List Drive) (l : LineName) (c : Nat) : List Drive :=
  ds.filter fun d => d.line == l && d.channel == c

/-- The content of one cell: `HiZ` unless driven (R99). -/
def cellOf (ds : List Drive) (l : LineName) (c : Nat) : LineCell :=
  match drivesOf ds l c with
  | [] => .hiZ
  | d :: _ => .driven d.agent d.value

/-- The eight cells of one line. -/
def laneOf (ds : List Drive) (l : LineName) : Lane :=
  ⟨cellOf ds l 0, cellOf ds l 1, cellOf ds l 2, cellOf ds l 3,
   cellOf ds l 4, cellOf ds l 5, cellOf ds l 6, cellOf ds l 7⟩

/-- The cells of a frame, in the order the contention check takes them. -/
def allCells : List (LineName × Nat) :=
  [(.txm, 0), (.txm, 1), (.txm, 2), (.txm, 3), (.txm, 4), (.txm, 5), (.txm, 6), (.txm, 7),
   (.rxm, 0), (.rxm, 1), (.rxm, 2), (.rxm, 3), (.rxm, 4), (.rxm, 5), (.rxm, 6), (.rxm, 7)]

/-- `CheckContention`: the first cell with more than one driver (R105; DESIGN CHOICE, log 25). -/
def contention (ds : List Drive) : Option (LineName × Nat) :=
  allCells.find? fun lc => 1 < (drivesOf ds lc.1 lc.2).length

/-- All placements of a frame (R100). -/
def allDrives (note : Option Bool) (s : State) : List Drive :=
  masterDrives s ++ slaveDrives note s ++ ampDrives s

/-- `recv(L, n, c)` (R107): a driven cell as placed under the premise `NoNoise`, an input of the
run (DESIGN CHOICE, log 15), else a draw. -/
def recv (s : State) (c : Nat) (cell : LineCell) : Sample :=
  match cell with
  | .driven _ v => if s.run.noNoise then v else Config.noise s.run.draws c
  | .hiZ => Config.float s.run.draws c

/-- The word the master receives in `PAIR_1` of `RXM` (R107), or the injected word (R82). The IV data of
`PAIR_2` is received and has no specified use (R107). -/
def receivedWord (s : State) (rxm : Lane) : PktWord :=
  match s.run.inject with
  | some w => w
  | none => wireDecode (recv s 2 (rxm.get 2), recv s 3 (rxm.get 3))

/-- The state after all placements of frame `frame_no` and the reception of the pair: both lines have
their cells, `rx` holds the received word for the master's reaction (R100, R14; DESIGN CHOICE, log 3). -/
def placed (note : Option Bool) (s : State) : State :=
  let tx := laneOf (allDrives note s) .txm
  let rx := laneOf (allDrives note s) .rxm
  { s with
    history := s.history ++ [⟨tx, rx⟩]
    txPending := pendingAfter note s
    rx := some (receivedWord s rx)
    run.inject := none
    run.draws := s.run.draws + 1 }

/-- Step `Frame`, up to the master's reaction (R100): it needs the bus active, a master (R95), JP41 set
(R212, R215; log 17), `amp[]` equal to the table (R170, R191; log 9), and no cell with two drivers
(R105). A frame that stops for contention leaves nothing of itself in the marked state, neither its cells
nor the placement of `tx_pending`, which the spec leaves open (DESIGN CHOICE, log 25). -/
def frameStep (note : Option Bool) (s : State) : Result :=
  if !s.i2sActive then notEnabled .busActive
  else if s.masterBoard.isNone then notEnabled .masterBooted
  else if !s.jumpersRouted then notEnabled .jumpersRouted
  else if !s.ampIsTable then refuse .unknownAmpConfig s
  else match contention (allDrives note s) with
    | some (l, c) => raise (.busContention l s.frameNo c) (.busContention l s.frameNo c) s
    | none => .next (placed note s)

end Sys2Proof.Machine
end

