-- ==== Sys2Proof/Machine/Events.lean ====
section
/-!
DEFINITION. The user's events: boot, Switch 2, the settings, the test harness's injection
(41_board_functions.md R120 to R131, 30_encoding.md R82).
-/

namespace Sys2Proof.Machine

/-- The role the level of P0_6 gives (R120). -/
def roleOf : Level → Role
  | .high => .master
  | .low => .slave

/-- The booted slave (R120, R121): the blue LED on, nothing waiting, the next data byte 0xFF. -/
def bootSlave (b : BoardId) (s : State) : State :=
  { s.setBoard b { s.board b with role := some .slave, blue := some .on } with
    swNext := 0xFF#8
    txPending := none }

/-- The booted master (R120, R123, R168): the bus inactive, the I2C port initialised, the 40 register
writes of `AmpInit` to do, which the next 40 steps perform (DESIGN CHOICE, log 4). -/
def bootMaster (b : BoardId) (s : State) : State :=
  { s.setBoard b { s.board b with role := some .master } with
    i2sActive := false
    ampInitIdx := 0
    i2cReady := true
    i2cQueue := ampWords }

/-- Event `boot b` (R120, R122, R211). -/
def boot (b : BoardId) (s : State) : Result :=
  if (s.role b).isSome then notEnabled (.notBootedYet b)
  else match (s.board b).p06 with
    | none => notEnabled (.p06Set b)
    | some l =>
      if s.role (otherBoard b) = some (roleOf l) then refuse .roleClash s
      else match roleOf l with
        | .slave => .next (bootSlave b s)
        | .master => .next (bootMaster b s)

/-- The diagnostic output written on every press of Switch 2, before any refusal (R130). -/
def drawP05 (b : BoardId) (s : State) : State :=
  let l := if Config.p05High s.run.draws then Level.high else Level.low
  (s.setBoard b { s.board b with p05 := some l }).drawn

/-- Event `press M.SW2` (R124, R125), after the diagnostic output; the bus may only be started with JP41 set
(R212; log 17). -/
def pressMaster (b : BoardId) (s : State) : Result :=
  if s.ampInitIdx ≠ Config.ampRegs then notEnabled .ampConfigured
  else if s.i2sActive then refuse .masterPressWhileActive s
  else if !s.jumpersRouted then notEnabled .jumpersRouted
  else .next { s.setLed b .green .on with i2sActive := true, frameNo := 0 }

/-- The packet the slave's next press sends (R128). -/
def slavePacket (s : State) : PktWord :=
  buildPacket Config.srcGpio 0x01#8 [s.swNext, 0x00#8, 0x00#8, 0x00#8, 0x00#8]

/-- Event `press S.SW2` (R127, R128), after the diagnostic output; the byte advances at the press (D9;
DEDUCED, log 22). -/
def pressSlave (s : State) : Result :=
  if !s.i2sActive then refuse .slavePressWhileBusInactive s
  else if s.txPending.isSome then refuse .slavePressWhilePending s
  else .next { s with
    txPending := some ⟨slavePacket s, Config.pktFrames⟩
    swNext := s.swNext ^^^ 0xFF#8 }

/-- Event `press b.SW2`: what it does depends on the board's role (R124, R128, R130). -/
def pressSw2 (b : BoardId) (s : State) : Result :=
  match s.role b with
  | some .master => pressMaster b (drawP05 b s)
  | some .slave => pressSlave (drawP05 b s)
  | none => notEnabled (.booted b)

/-- Event `set b.P0_6` (R25): before any board boots (R205, R212 item 5; log 36); on a booted board it is refused
(R131). -/
def setP06 (b : BoardId) (l : Level) (s : State) : Result :=
  if (s.role b).isSome then refuse .roleChangeAfterBoot s
  else if s.anyBooted then notEnabled (.p06BeforeBoot b)
  else .next (s.setBoard b { s.board b with p06 := some l })

/-- Event `set b.JP41`, before any board boots (R36, R205, R212). -/
def setJp41 (b : BoardId) (p : Jumper) (s : State) : Result :=
  if s.anyBooted then notEnabled (.jumperBeforeBoot b)
  else .next (s.setBoard b { s.board b with jp41 := p })

/-- `inject RXM.PAIR_1 <word>`: the word the master receives in the next frame (R82; DEDUCED, log 33). -/
def injectWord (w : PktWord) (s : State) : Result := .next { s with run.inject := some w }

/-- One event of the schedule. -/
def eventStep (e : Event) (s : State) : Result :=
  match e with
  | .setP06 b l => setP06 b l s
  | .setJp41 b p => setJp41 b p s
  | .boot b => boot b s
  | .pressSw2 b => pressSw2 b s
  | .frame note => frameStep note s
  | .inject w => injectWord w s

/-- What the machine does with no event to come: frames follow one another while the bus is active (R206,
R217); otherwise it waits for the user and nothing changes (R100; DESIGN CHOICE, log 23). -/
def idleStep (s : State) : Result := if s.i2sActive then frameStep none s else .next s

/-- The state with a master that can write registers: for the host's fetch only, it gives the first
board without a role that of the master and takes the I2C port as initialised (DESIGN CHOICE, log 27). -/
def withMaster (s : State) : State :=
  let t := if s.masterBoard.isSome then s
    else if s.board1.role.isNone || s.board2.role.isSome then
      { s with board1 := { s.board1 with role := some .master } }
    else { s with board2 := { s.board2 with role := some .master } }
  { t with i2cReady := true }

end Sys2Proof.Machine
end

