-- ==== Sys2Proof/Machine/Step.lean ====
section
/-!
DEFINITION. One step of the system (00_scope.md R14): the master's reaction to the pair received in the
frame in progress, else the next register write of `AmpInit`, else the next event of the schedule, else
what the system does by itself (DESIGN CHOICE, log 1). A marked state does not step (R190, R191).
-/

namespace Sys2Proof.Machine

open Sys2Proof

/-- The meaning of a received word, before the frame ends (R149). -/
def runPacket (w : PktWord) (s : State) : Result :=
  match decodePkt w with
  | .ok i => exec i s
  | .error _ => packetOther w s

/-- The meaning of a register write at the I2C port (R165). -/
def runAmpWord (w : AmpWord) (s : State) : Result :=
  match decodeAmpw w with
  | .ok i => exec i s
  | .error _ => ampOther w s

/-- One step of an unmarked state. -/
def stepUnmarked (s : State) : Result :=
  match s.rx with
  | some w => andThen (runPacket w { s with rx := none }) endFrame
  | none =>
    match s.i2cQueue with
    | w :: ws => runAmpWord w { s with i2cQueue := ws }
    | [] =>
      match s.run.schedule with
      | e :: es => eventStep e { s with run.schedule := es }
      | [] => idleStep s

/-- One step (R14, R190, R191). -/
def step (s : State) : Host.Outcome State Fault Refusal :=
  if s.faults ≠ [] then .fault (.alreadyFaulted s)
  else if s.refused then .refused (.alreadyRefused s)
  else stepUnmarked s

/-- The state with an encoded unit where the next step takes it: a register write at the head of the I2C
port's list, a packet word as the received pair; a master is there to react (DESIGN CHOICE, log 27). -/
def State.withFetchWord (s : State) (nbits w : Nat) : State :=
  if nbits = 24 then
    { withMaster s with rx := none, i2cQueue := BitVec.ofNat 24 w :: s.i2cQueue }
  else { withMaster s with rx := some (BitVec.ofNat 64 (w % 2 ^ nbits)) }

end Sys2Proof.Machine
end

