-- ==== Sys2Proof/Safety.lean ====
section
/-!
DEFINITION. The terms claims use: the observation (60_exceptions.md R206), the premises a claim may take
(R107 NoNoise is an input of the run; R212, R217), and the invariant of the reachable states.
-/

namespace Sys2Proof.Safety

open Sys2Proof.Machine

/-! ### The observation and the premises -/

/-- What the user and an instrumented bench see (R203, R206). -/
structure Observation where
  leds : List (Option LedState)
  p05 : List (Option Level)
  lines : List FrameCells
  faults : List FaultRecord
  refused : Bool
  deriving DecidableEq, Repr

/-- The observation of a state: every LED of both boards, P0_5 of both, the two lines, the marks (R206). -/
def observe (s : State) : Observation where
  leds := [s.led .one .blue, s.led .one .green, s.led .one .ledRx,
    s.led .two .blue, s.led .two .green, s.led .two .ledRx]
  p05 := [s.board1.p05, s.board2.p05]
  lines := s.history
  faults := s.faults
  refused := s.refused

/-- The boot requirements of R212 that the state can show, due before any board boots: JP41 in position 2-3 on
both boards (item 2; that it is both is the model's choice, log 17), and P0_6 High on exactly one board and Low
on the other (item 5). Wiring, pull-ups and power are taken as met (U9, U10). -/
def benchReady (s : State) : Bool :=
  s.board1.jp41 == .pos23 && s.board2.jp41 == .pos23 &&
    ((s.board1.p06 == some .high && s.board2.p06 == some .low) ||
      (s.board1.p06 == some .low && s.board2.p06 == some .high))

/-- Weak fairness of `choose(send_now)`: after any draw there is a later one that sends (R103, R217). -/
def FairSend : Prop := ∀ n, ∃ m, n ≤ m ∧ Config.sendNow m = true

/-- The state carries no mark: what R191 calls the premise "not refused", and no fault (R37). -/
def unmarked (s : State) : Bool := s.faults.isEmpty && !s.refused

/-! ### Runs -/

/-- The system at reset, given a run's inputs. A claim about the runs of the system quantifies over the inputs, so
over every schedule of user events, which is no state (R15, R206). -/
def start (inputs : RunInputs) : State := { System.reset with run := inputs }

/-! ### The parts of the invariant -/

/-- No two booted boards have the same role (R122). -/
def rolesDistinct (s : State) : Bool := (s.role .one).isNone || s.role .one != s.role .two

/-- A booted board's role is the one its P0_6 level gives (R120). -/
def roleOfPin (s : State) (b : BoardId) : Bool :=
  (s.role b).isNone || s.role b == (s.board b).p06.map roleOf

/-- The blue LED of a booted slave is on: the model never writes it again (R121), as LED_RX is an LED of its own
(D8; DEDUCED, log 21). -/
def slaveBlueOn (s : State) (b : BoardId) : Bool :=
  s.role b != some .slave || s.led b .blue == some .on

/-- Before a master has booted nothing of the master's has happened; after that the I2C port is
initialised and exactly the writes from `amp_init_idx` on are still to do (R60, R120, R168). -/
def masterProgress (s : State) : Bool :=
  match s.masterBoard with
  | none => !s.i2sActive && s.ampInitIdx == 0 && s.i2cQueue == [] && s.amp == []
  | some _ => s.i2cReady && s.ampInitIdx ≤ Config.ampRegs && s.i2cQueue == ampWords.drop s.ampInitIdx

/-- The first `amp_init_idx` registers of the table hold the table's values (R32, R168). -/
def ampWritten (s : State) : Bool :=
  (ampTable.take s.ampInitIdx).all fun r => Memory.read s.amp r.addr.toNat == some r.value

/-- While the bus is active all 40 writes are done and the master's green LED is on (R60, R124); no packet drives
that LED, as LED_RX is an LED of its own (D8; DEDUCED, log 21). -/
def activeConfigured (s : State) : Bool :=
  !s.i2sActive || (s.ampInitIdx == Config.ampRegs &&
    match s.masterBoard with
    | some b => s.led b .green == some .on
    | none => false)

/-- While the bus is inactive no frame exists and no packet waits (R27, R30, R35, R127). -/
def inactiveQuiet (s : State) : Bool :=
  s.i2sActive || (s.history == [] && s.frameNo == 0 && s.txPending == none && s.rx == none)

/-- `frame_no` counts the completed frames; the frame in progress has its lines placed already (R33, R35). -/
def framesCounted (s : State) : Bool := s.history.length == s.frameNo + (if s.rx.isSome then 1 else 0)

/-- The packet with data 0xFF of R147. -/
def packetOn : PktWord := 0xB700000000FF010D#64
/-- The packet with data 0x00 of R147. -/
def packetOff : PktWord := 0x180000000000010D#64

/-- `sw_next` is 0xFF or 0x00 (R28); a waiting packet is one of the two of R147, is still to be placed in
at least one frame (R30), and a slave holds it. -/
def slaveSends (s : State) : Bool :=
  (s.swNext == 0xFF#8 || s.swNext == 0x00#8) &&
    match s.txPending with
    | none => true
    | some p => (p.word == packetOn || p.word == packetOff) && 1 ≤ p.left && s.slaveBoard.isSome

/-- The agent that drives a cell. -/
def driver : LineCell → Option Agent
  | .hiZ => none
  | .driven a _ => some a

/-- The pair allocation of R57 and R101 to R104: on `TXM` the master and nobody else drives `PAIR_0` and
`PAIR_3`; on `RXM` only the slave may drive `PAIR_1` and only the amplifier `PAIR_2`. -/
def allocated (f : FrameCells) : Bool :=
  (List.range 8).map (fun c => driver (f.txm.get c))
      == [some .master, some .master, none, none, none, none, some .master, some .master]
    && driver (f.rxm.get 0) == none && driver (f.rxm.get 1) == none
    && (driver (f.rxm.get 2) == none || driver (f.rxm.get 2) == some .slave)
    && driver (f.rxm.get 3) == driver (f.rxm.get 2)
    && (driver (f.rxm.get 4) == none || driver (f.rxm.get 4) == some .amp)
    && driver (f.rxm.get 5) == driver (f.rxm.get 4)
    && driver (f.rxm.get 6) == none && driver (f.rxm.get 7) == none

/-- Every frame on the lines keeps the allocation. -/
def historyAllocated (s : State) : Bool := s.history.all allocated

/-- The invariant of every reachable unmarked state. -/
structure Inv (s : State) : Prop where
  unmarked : unmarked s = true
  rolesDistinct : rolesDistinct s = true
  roleOfPin : ∀ b, roleOfPin s b = true
  slaveBlueOn : ∀ b, slaveBlueOn s b = true
  ampWf : Memory.wf s.amp = true
  masterProgress : masterProgress s = true
  ampWritten : ampWritten s = true
  activeConfigured : activeConfigured s = true
  inactiveQuiet : inactiveQuiet s = true
  framesCounted : framesCounted s = true
  slaveSends : slaveSends s = true
  historyAllocated : historyAllocated s = true

/-! ### Outputs nothing reads -/

/-- A board without its outputs: the three LEDs and P0_5 (R26, R29). -/
def Board.withoutOutputs (x : Board) : Board :=
  { x with blue := none, green := none, ledRx := none, p05 := none }

/-- A state without the boards' outputs, which no rule reads (R26, R29, R40). -/
def withoutOutputs (s : State) : State :=
  { s with board1 := Board.withoutOutputs s.board1, board2 := Board.withoutOutputs s.board2 }

end Sys2Proof.Safety
end

