-- ==== Sys2Proof/Certificates/Slice0/Obligations.lean ====
section
/-!
DEFINITION. The statements for the provers: what the rules of spec/ say the machine does, over every state
and every operand.
-/

namespace Sys2Proof.Claims

open Sys2Proof Sys2Proof.Machine Sys2Proof.Safety

/-- The state has a master that can write the amplifier: what R165 requires. -/
def writeReady (s : State) : Prop := (∃ b, s.role b = some .master) ∧ s.i2cReady = true

/-- What one of the rules R300 to R339 says of its register write: the table's row number, name, address,
value and default mark; the 24-bit pattern; the power-up value (R167); and that the write, where R165
allows it, answers a next state in which that register holds the value, every other register is as
before, one more write is counted up to 40 and none after that (R32, R165, R168; that every write counts,
also one outside `AmpInit`, and that the count stays at 40, is the model's reading: log 18), and nothing
else of the state has changed. -/
def rowMeans (k : Nat) (name : String) (i : Instr) (a : RegAddr) (v : Byte) (isDefault : Bool)
    (w : AmpWord) : Prop :=
  ampTable[k - 1]? = some ⟨name, a, v, isDefault⟩ ∧
  encode i = .ampw24 w ∧ decode (.ampw24 w) = .ok i ∧ w = a ++ v ∧
  ampPowerUp a.toNat = (if isDefault then some v else none) ∧
  ∀ s, writeReady s → ∃ t, exec i s = .next t ∧
    Memory.read t.amp a.toNat = some v ∧
    (∀ x, x ≠ a.toNat → Memory.read t.amp x = Memory.read s.amp x) ∧
    (s.ampInitIdx < 40 → t.ampInitIdx = s.ampInitIdx + 1) ∧
    (40 ≤ s.ampInitIdx → t.ampInitIdx = 40) ∧
    t = { s with amp := t.amp, ampInitIdx := t.ampInitIdx }

/-- Every register of the table holds the table's value: what R170 calls `amp[]` equal to the table. -/
def ampIsTable (s : State) : Prop :=
  ∀ r ∈ ampTable, Memory.read s.amp r.addr.toNat = some r.value

/-- The level P0_5 shows after a press: the draw of the press (R130). -/
def drawnLevel (s : State) : Level := if Config.p05High s.run.draws then .high else .low

/-- `t` is `s` after the diagnostic output of a press on board `b`: its P0_5 holds the draw, one draw is
used, nothing else has changed (R130). -/
def pressShown (b : BoardId) (s t : State) : Prop :=
  t.board b = { s.board b with p05 := some (drawnLevel s) } ∧
  t.board (otherBoard b) = s.board (otherBoard b) ∧
  t = { s with board1 := t.board1, board2 := t.board2, run.draws := s.run.draws + 1 }

/-- The frame step is enabled: the bus active, a master, JP41 set (R212 item 2; the model's choice of boards:
log 17), no two boards of one role, the amplifier's registers equal to the table (R100, R122, R170). -/
def frameReady (s : State) : Prop :=
  s.i2sActive = true ∧ s.masterBoard.isSome = true ∧ s.jumpersRouted = true ∧ rolesDistinct s = true ∧
    ampIsTable s

end Sys2Proof.Claims

open Sys2Proof Sys2Proof.Machine Sys2Proof.Safety Sys2Proof.Claims

/-! ### Encoding -/

/-- R71, R73, R77: decoding the encoding of any unit gives the unit back, whatever its operands. -/
def Obligations.DecodeEncodeEveryUnit : Prop := ∀ i, decode (encode i) = .ok i

/-- R71, R73, R77: a word the decoder reads as a unit is that unit's encoding; no two words decode to one
unit. -/
def Obligations.EncodeDecodeEveryWord : Prop := ∀ u i, decode u = .ok i → encode i = u

/-- Words written out in the spec decode to what they stand for: the two packets of R147 and the patterns
of R300, R305, R319 and R339. -/
def Obligations.WordsOfTheSpecDecode : Prop :=
  decode (.pkt64 0xB700000000FF010D#64) = .ok (.pktSrcGpio 0x01#8 0x00000000FF#40 0xB7#8) ∧
  decode (.pkt64 0x180000000000010D#64) = .ok (.pktSrcGpio 0x01#8 0x0000000000#40 0x18#8) ∧
  decode (.ampw24 0b001000000010000000001010#24) = .ok .ampwThermalWrn ∧
  decode (.ampw24 0b001000000100000011011001#24) = .ok .ampwPcmModeCfg ∧
  decode (.ampw24 0b001000000101100100010000#24) = .ok .ampwPcmRxSrc2 ∧
  decode (.ampw24 0b001000001110111100000000#24) = .ok .ampwBrwnoutProtAlcEn

/-- R73, R80: the decoder of register writes accepts exactly the 40 words of the table, and rejects a word
as an unlisted register exactly where its address is none of the 40. -/
def Obligations.AmpwDecoderAcceptsTheTable : Prop :=
  ∀ w, ((∃ i, decodeAmpw w = .ok i) ↔ ∃ r ∈ ampTable, w = r.addr ++ r.value) ∧
    (decodeAmpw w = .error (.unlistedAmpRegister (ampAddr w)) ↔ ∀ r ∈ ampTable, r.addr ≠ ampAddr w)

/-- 95_test_vectors.md 2.5, there for the default `crc8`, here for the machine's, of which only the two pairs
of R144 are known (log 10): of the 2^64 words exactly the two packets of R147 are in the class "defined" of
R78. -/
def Obligations.ExactlyTwoWordsAreDefined : Prop :=
  ∀ w, (pktClass w = .ledOn ↔ w = packetOn) ∧ (pktClass w = .ledOff ↔ w = packetOff)

/-! ### The packet -/

/-- R147 (and R142, R144, R145): the two worked examples as buffers and words, their CRC for the machine's
`crc8` and for the default instance, and the register of the default instance after each of the 8 bytes.
The traces and the default instance are the spec's derivation, not the source's (R145, R147; log 10), and
the place of each byte in the word is its decision D2 (log 11). -/
def Obligations.WorkedPacketsCheck : Prop :=
  pack [0x0D, 0x01, 0xFF, 0x00, 0x00, 0x00, 0x00, 0xB7] = packetOn ∧
  pack [0x0D, 0x01, 0x00, 0x00, 0x00, 0x00, 0x00, 0x18] = packetOff ∧
  crc8 [0x0D, 0x01, 0xFF, 0x00, 0x00, 0x00, 0x00, 0xB7] = 0xB7#8 ∧
  crc8 [0x0D, 0x01, 0x00, 0x00, 0x00, 0x00, 0x00, 0x18] = 0x18#8 ∧
  crc8Default [0x0D, 0x01, 0xFF, 0x00, 0x00, 0x00, 0x00, 0xB7] = 0xB7#8 ∧
  crc8Default [0x0D, 0x01, 0x00, 0x00, 0x00, 0x00, 0x00, 0x18] = 0x18#8 ∧
  crcTrace 0 [0x0D, 0x01, 0xFF, 0x00, 0x00, 0x00, 0x00, 0x00] =
    [0x23, 0xEE, 0x77, 0x42, 0xC9, 0x71, 0x50, 0xB7] ∧
  crcTrace 0 [0x0D, 0x01, 0x00, 0x00, 0x00, 0x00, 0x00, 0x00] =
    [0x23, 0xEE, 0x84, 0x95, 0xE2, 0xA0, 0x69, 0x18]

/-- R141, R146 (whatever `crc8` is beyond its two pairs; that it takes byte 7 as zero: log 10): a built
packet has the start nibble, the given source,
length and data bytes in their places, and passes the check of R148; with source `SRC_GPIO`, a length of
at most 5 and zero bytes after the data it decodes to a well-formed instruction. -/
def Obligations.BuiltPacketsAreValid : Prop :=
  ∀ (source : Nibble) (length d0 d1 d2 d3 d4 : Byte),
    let w := buildPacket source length [d0, d1, d2, d3, d4]
    pktStart w = 0xD#4 ∧ pktSource w = source ∧ pktLength w = length ∧
    dataBytes (pktData w) = [d0, d1, d2, d3, d4] ∧ valid w = true ∧
    (source = 0x0#4 → length.toNat ≤ 5 → tailZero length (pktData w) = true →
      ∃ i, decode (.pkt64 w) = .ok i ∧ WellFormed i = true)

/-- 95_test_vectors.md 2.3: under the default `crc8` of R145, the spec's own finding (log 10), every
single-bit change of a valid word fails the check of R148. -/
def Obligations.SingleBitErrorsAreCaught : Prop :=
  ∀ w, validWith crc8Default w = true → ∀ k < 64, validWith crc8Default (w ^^^ (1#64 <<< k)) = false

/-- R148: a word that fails the start nibble or the CRC is ignored: the state is unchanged and nothing is
recorded; of a word that is a row of the table, the instruction itself answers the same state. That "bad"
means "no state changes" is the spec's decision D6 and the model's choice of reading (log 20). -/
def Obligations.InvalidWordsAreIgnored : Prop :=
  (∀ w s, valid w = false → runPacket w s = .next s) ∧
  (∀ length data crc s, crcOk (pktWord 0x0#4 length data crc) = false →
    exec (.pktSrcGpio length data crc) s = .next s)

/-- R150: a packet with a good CRC sets the master's LED_RX on for length 1 and data FF 00 00 00 00, off
for length 1 and five zero bytes, and is refused for anything else. That zero sets it off is R150's own
inference, not the source's, and that LED_RX is an LED of its own is D8's (log 21). Without a master
there is no LED to set, and the first two are not enabled (log 5). -/
def Obligations.GpioActionSetsALevel : Prop :=
  (∀ s b length data crc, s.masterBoard = some b → crcOk (pktWord 0x0#4 length data crc) = true →
    exec (.pktSrcGpio length data crc) s =
      if length = 0x01#8 ∧ dataBytes data = [0xFF#8, 0x00#8, 0x00#8, 0x00#8, 0x00#8] then
        .next (s.setLed b .ledRx .on)
      else if length = 0x01#8 ∧ dataBytes data = [0x00#8, 0x00#8, 0x00#8, 0x00#8, 0x00#8] then
        .next (s.setLed b .ledRx .off)
      else .refused (.unspecifiedGpioPayload { s with refused := true })) ∧
  (∀ s length data crc, s.masterBoard = none → crcOk (pktWord 0x0#4 length data crc) = true →
    exec (.pktSrcGpio length data crc) s =
      if length = 0x01#8 ∧ (dataBytes data = [0xFF#8, 0x00#8, 0x00#8, 0x00#8, 0x00#8] ∨
        dataBytes data = [0x00#8, 0x00#8, 0x00#8, 0x00#8, 0x00#8]) then
        .refused (.notEnabled .masterBooted)
      else .refused (.unspecifiedGpioPayload { s with refused := true }))

/-- R151: a valid word with another source than `SRC_GPIO` is refused, not ignored. -/
def Obligations.OtherSourcesAreRefused : Prop :=
  ∀ w s, valid w = true → pktSource w ≠ 0x0#4 →
    runPacket w s = .refused (.unimplementedSource (pktSource w) { s with refused := true })

/-- R78: every received word falls in exactly one class, tested in the order start, CRC, source, payload,
and has that class's treatment. That a corrupted word changes nothing rests on D6 (log 20), that data zero
sets the LED off on R150's inference, that LED_RX is an LED of its own on D8 (log 21), that any other payload is
refused on the spec's decision. -/
def Obligations.ReceptionFollowsTheClasses : Prop :=
  ∀ w s b, s.masterBoard = some b →
    runPacket w s =
      match pktClass w with
      | .notAPacket => .next s
      | .corrupted => .next s
      | .unimplementedSource n => .refused (.unimplementedSource n { s with refused := true })
      | .ledOn => .next (s.setLed b .ledRx .on)
      | .ledOff => .next (s.setLed b .ledRx .off)
      | .unspecifiedPayload => .refused (.unspecifiedGpioPayload { s with refused := true })

/-- R149, R150, the frame of `PKT.SRC_GPIO`: when it answers a next state, nothing has changed but LED_RX
of the master; every amplifier register reads as before. That LED_RX is neither the blue LED nor the green one
is the model's choice (D8, log 21). -/
def Obligations.PacketChangesOnlyLedRx : Prop :=
  ∀ length data crc s t, exec (.pktSrcGpio length data crc) s = .next t →
    (∀ b c, (c ≠ .ledRx ∨ s.masterBoard ≠ some b) → t.led b c = s.led b c) ∧
    (∀ b, (t.board b).role = (s.board b).role ∧ (t.board b).p06 = (s.board b).p06 ∧
      (t.board b).jp41 = (s.board b).jp41 ∧ (t.board b).p05 = (s.board b).p05) ∧
    (∀ a, Memory.read t.amp a = Memory.read s.amp a) ∧
    t = { s with board1 := t.board1, board2 := t.board2 }

/-! ### The amplifier's registers -/

/-- R300 to R304: each register write of the thermal, speaker-monitor and error-monitor registers is its row of the
table, has the pattern its rule gives and the power-up value of R167, writes its value (R165), and changes nothing
else but the count of writes (log 18). -/
def Obligations.ProtectionRegisterWrites : Prop :=
  rowMeans 1 "THERMAL_WRN" .ampwThermalWrn 0x2020#16 0x0A#8 true
    0x20200A#24 ∧
  rowMeans 2 "SPK_MON_THRESH" .ampwSpkMonThresh 0x2031#16 0x58#8 true
    0x203158#24 ∧
  rowMeans 3 "SPK_MON_LOAD" .ampwSpkMonLoad 0x2032#16 0x08#8 true
    0x203208#24 ∧
  rowMeans 4 "SPK_MON_DUR" .ampwSpkMonDur 0x2033#16 0x02#8 true
    0x203302#24 ∧
  rowMeans 5 "ERROR_MON_CTL" .ampwErrorMonCtl 0x2037#16 0x01#8 true
    0x203701#24

/-- R305 to R309: each register write of the PCM format, clock, rate and slot registers is its row of the
table, has the pattern its rule gives and the power-up value of R167, writes its value (R165), and changes nothing
else but the count of writes (log 18). -/
def Obligations.PcmFormatAndSlotRegisterWrites : Prop :=
  rowMeans 6 "PCM_MODE_CFG" .ampwPcmModeCfg 0x2040#16 0xD9#8 false
    0x2040D9#24 ∧
  rowMeans 7 "PCM_CLK_SETUP" .ampwPcmClkSetup 0x2041#16 0x08#8 false
    0x204108#24 ∧
  rowMeans 8 "PCM_SAMPLE_RATE" .ampwPcmSampleRate 0x2042#16 0x88#8 false
    0x204288#24 ∧
  rowMeans 9 "PCM_TX_CTL1" .ampwPcmTxCtl1 0x2044#16 0x10#8 false
    0x204410#24 ∧
  rowMeans 10 "PCM_TX_CTL2" .ampwPcmTxCtl2 0x2045#16 0x14#8 false
    0x204514#24

/-- R310 to R317: each register write of the eight high-impedance registers is its row of the
table, has the pattern its rule gives and the power-up value of R167, writes its value (R165), and changes nothing
else but the count of writes (log 18). -/
def Obligations.HighImpedanceRegisterWrites : Prop :=
  rowMeans 11 "PCM_HIZ_CTL1" .ampwPcmHizCtl1 0x2050#16 0xFF#8 true
    0x2050FF#24 ∧
  rowMeans 12 "PCM_HIZ_CTL2" .ampwPcmHizCtl2 0x2051#16 0xFF#8 true
    0x2051FF#24 ∧
  rowMeans 13 "PCM_HIZ_CTL3" .ampwPcmHizCtl3 0x2052#16 0xFF#8 true
    0x2052FF#24 ∧
  rowMeans 14 "PCM_HIZ_CTL4" .ampwPcmHizCtl4 0x2053#16 0xFF#8 true
    0x2053FF#24 ∧
  rowMeans 15 "PCM_HIZ_CTL5" .ampwPcmHizCtl5 0x2054#16 0xFF#8 true
    0x2054FF#24 ∧
  rowMeans 16 "PCM_HIZ_CTL6" .ampwPcmHizCtl6 0x2055#16 0xFF#8 true
    0x2055FF#24 ∧
  rowMeans 17 "PCM_HIZ_CTL7" .ampwPcmHizCtl7 0x2056#16 0xFF#8 true
    0x2056FF#24 ∧
  rowMeans 18 "PCM_HIZ_CTL8" .ampwPcmHizCtl8 0x2057#16 0xFF#8 true
    0x2057FF#24

/-- R318 to R323: each register write of the PCM routing, drive-strength and enable registers is its row of the
table, has the pattern its rule gives and the power-up value of R167, writes its value (R165), and changes nothing
else but the count of writes (log 18). -/
def Obligations.PcmRoutingRegisterWrites : Prop :=
  rowMeans 19 "PCM_RX_SRC1" .ampwPcmRxSrc1 0x2058#16 0x00#8 true
    0x205800#24 ∧
  rowMeans 20 "PCM_RX_SRC2" .ampwPcmRxSrc2 0x2059#16 0x10#8 false
    0x205910#24 ∧
  rowMeans 21 "PCM_TX_DRV_STR" .ampwPcmTxDrvStr 0x205C#16 0x01#8 true
    0x205C01#24 ∧
  rowMeans 22 "PCM_TX_SRC_EN" .ampwPcmTxSrcEn 0x205D#16 0x03#8 false
    0x205D03#24 ∧
  rowMeans 23 "PCM_RX_EN" .ampwPcmRxEn 0x205E#16 0x01#8 false
    0x205E01#24 ∧
  rowMeans 24 "PCM_TX_EN" .ampwPcmTxEn 0x205F#16 0x01#8 false
    0x205F01#24

/-- R324 to R330: each register write of the speaker-path registers is its row of the
table, has the pattern its rule gives and the power-up value of R167, writes its value (R165), and changes nothing
else but the count of writes (log 18). -/
def Obligations.SpeakerRegisterWrites : Prop :=
  rowMeans 25 "SPK_VOL_CTL" .ampwSpkVolCtl 0x2090#16 0x00#8 true
    0x209000#24 ∧
  rowMeans 26 "SPK_CH_CFG" .ampwSpkChCfg 0x2091#16 0x02#8 true
    0x209102#24 ∧
  rowMeans 27 "SPK_AMP_OUT_CFG" .ampwSpkAmpOutCfg 0x2092#16 0x03#8 true
    0x209203#24 ∧
  rowMeans 28 "SPK_AMP_SSM_CFG" .ampwSpkAmpSsmCfg 0x2093#16 0x01#8 true
    0x209301#24 ∧
  rowMeans 29 "SPK_AMP_EDGE_RATE_CTL" .ampwSpkAmpEdgeRateCtl 0x2094#16 0x0F#8 true
    0x20940F#24 ∧
  rowMeans 30 "SPK_CH_PINK_NOISE_EN" .ampwSpkChPinkNoiseEn 0x209E#16 0x00#8 true
    0x209E00#24 ∧
  rowMeans 31 "SPK_CH_AMP_EN" .ampwSpkChAmpEn 0x209F#16 0x01#8 false
    0x209F01#24

/-- R331 to R332: each register write of the IV data registers is its row of the
table, has the pattern its rule gives and the power-up value of R167, writes its value (R165), and changes nothing
else but the count of writes (log 18). -/
def Obligations.IvDataRegisterWrites : Prop :=
  rowMeans 32 "IV_DATA_DSP_CTL" .ampwIvDataDspCtl 0x20A0#16 0x10#8 true
    0x20A010#24 ∧
  rowMeans 33 "IV_DATA_EN" .ampwIvDataEn 0x20A7#16 0x03#8 false
    0x20A703#24

/-- R333 to R339: each register write of the brown-out registers is its row of the
table, has the pattern its rule gives and the power-up value of R167, writes its value (R165), and changes nothing
else but the count of writes (log 18). -/
def Obligations.BrownOutRegisterWrites : Prop :=
  rowMeans 34 "BRWNOUT_PROT_ALC_THRESH" .ampwBrwnoutProtAlcThresh 0x20E0#16 0x04#8 true
    0x20E004#24 ∧
  rowMeans 35 "BRWNOUT_PROT_ALC_RATES" .ampwBrwnoutProtAlcRates 0x20E1#16 0x20#8 true
    0x20E120#24 ∧
  rowMeans 36 "BRWNOUT_PROT_ALC_ATTN" .ampwBrwnoutProtAlcAttn 0x20E2#16 0x06#8 true
    0x20E206#24 ∧
  rowMeans 37 "BRWNOUT_PROT_ALC_RELEASE" .ampwBrwnoutProtAlcRelease 0x20E3#16 0x02#8 true
    0x20E302#24 ∧
  rowMeans 38 "BRWNOUT" .ampwBrwnout 0x20E4#16 0x33#8 true
    0x20E433#24 ∧
  rowMeans 39 "BRWNOUT_PROT_ALC_INF_HOLD_RELEASE" .ampwBrwnoutProtAlcInfHoldRelease 0x20EE#16 0x00#8 true
    0x20EE00#24 ∧
  rowMeans 40 "BRWNOUT_PROT_ALC_EN" .ampwBrwnoutProtAlcEn 0x20EF#16 0x00#8 true
    0x20EF00#24

/-- R50, R51, R165: a register write by a master whose I2C port is initialised writes a listed register,
whatever the value (log 26), counts one write more up to 40 and none after that (R32, R168; log 18), and
changes nothing else; it is refused at any other address. Writing a
register's default value leaves it at its power-up value, and the order of writes to distinct addresses
does not affect the final registers. -/
def Obligations.RegisterWriteOperation : Prop :=
  (∀ (a : RegAddr) (v : Byte) s, writeReady s →
    ((∃ r ∈ ampTable, r.addr = a) → ∃ t, runAmpWord (a ++ v) s = .next t ∧
      Memory.read t.amp a.toNat = some v ∧
      (∀ x, x ≠ a.toNat → Memory.read t.amp x = Memory.read s.amp x) ∧
      (s.ampInitIdx < 40 → t.ampInitIdx = s.ampInitIdx + 1) ∧
      (40 ≤ s.ampInitIdx → t.ampInitIdx = 40) ∧
      t = { s with amp := t.amp, ampInitIdx := t.ampInitIdx }) ∧
    ((∀ r ∈ ampTable, r.addr ≠ a) →
      runAmpWord (a ++ v) s = .refused (.unlistedAmpRegister a { s with refused := true }))) ∧
  (∀ r ∈ ampTable, r.isDefault = true → Memory.write [] r.addr.toNat r.value = []) ∧
  (∀ (m : Memory) (a b : Nat) (v w : Byte), Memory.wf m = true → ampListed a = true →
    ampListed b = true → a ≠ b →
    Memory.write (Memory.write m a v) b w = Memory.write (Memory.write m b w) a v)

/-- R165, R199 (log 5: a step whose requirement fails is answered as not enabled): without a master, or
without the I2C port, no unit of format `AMPW24` writes anything. -/
def Obligations.OnlyAMasterWritesRegisters : Prop :=
  ∀ i w s, encode i = .ampw24 w →
    ((∀ b, s.role b ≠ some .master) → exec i s = .refused (.notEnabled .masterBooted)) ∧
    ((∃ b, s.role b = some .master) → s.i2cReady = false →
      exec i s = .refused (.notEnabled .i2cInitialised))

/-- R52: writing the same value twice leaves `amp[]` as writing it once does. The second write is counted like
the first, up to 40 (log 18), and changes nothing else. That any value may be written: log 26. -/
def Obligations.RegisterWriteTwiceLeavesTheRegistersOfOne : Prop :=
  (∀ (m : Memory) (a : Nat) (v : Byte), Memory.wf m = true → ampListed a = true →
    Memory.write (Memory.write m a v) a v = Memory.write m a v) ∧
  (∀ s (a : RegAddr) (v : Byte), Memory.wf s.amp = true → writeReady s → (∃ r ∈ ampTable, r.addr = a) →
    ∃ t u, runAmpWord (a ++ v) s = .next t ∧ runAmpWord (a ++ v) t = .next u ∧ u.amp = t.amp ∧
      (t.ampInitIdx < 40 → u.ampInitIdx = t.ampInitIdx + 1) ∧
      (40 ≤ t.ampInitIdx → u.ampInitIdx = 40) ∧
      u = { t with ampInitIdx := u.ampInitIdx })

/-- R168 (one write a step: log 4): from any unmarked state whose master has the whole of `AmpInit` to
do, 40 steps perform it: all 40 writes are counted, every register holds the table's value, the memory
keeps its form, and nothing else has changed. -/
def Obligations.AmpInitReachesTheTable : Prop :=
  ∀ s, unmarked s = true → s.rx = none → writeReady s → s.ampInitIdx = 0 → s.i2cQueue = ampWords →
    ∃ t, Host.Core.run core 40 s = .next t ∧ t.ampInitIdx = 40 ∧ t.i2cQueue = [] ∧ ampIsTable t ∧
      (Memory.wf s.amp = true → Memory.wf t.amp = true) ∧
      t = { s with amp := t.amp, ampInitIdx := t.ampInitIdx, i2cQueue := t.i2cQueue }

/-! ### Steps -/

/-- R100, R148, R149, R151 (log 1, 3, 20): a step of an unmarked state with a received word is the word's
meaning in the state without it, followed, where that answers a next state, by the end of the frame:
`frame_no` advances. The meaning of a word that decodes to `i` is `i`'s; a word that fails a check of R148
only ends the frame; a valid word of another source refuses the run. -/
def Obligations.StepRunsTheReceivedPacket : Prop :=
  (∀ s w, unmarked s = true → s.rx = some w →
    step s = match runPacket w { s with rx := none } with
      | .next t => .next { t with frameNo := t.frameNo + 1 }
      | .fault r => .fault r
      | .refused r => .refused r) ∧
  (∀ s w i, decodePkt w = .ok i → runPacket w s = exec i s) ∧
  (∀ s w, unmarked s = true → s.rx = some w → valid w = false →
    step s = .next { s with rx := none, frameNo := s.frameNo + 1 }) ∧
  (∀ s w, unmarked s = true → s.rx = some w → valid w = true → pktSource w ≠ 0x0#4 →
    step s = .refused (.unimplementedSource (pktSource w) { s with rx := none, refused := true }))

/-- R50, R80, R165, R168 (log 1, 4, 26): a step of an unmarked state with no received word and a register
write to do is that write's meaning in the state without it; the meaning of a write that decodes to `i` is
`i`'s; a write that is no row of the table writes a listed register, whatever the value, and refuses the
run at any other address. -/
def Obligations.StepRunsTheRegisterWrite : Prop :=
  (∀ s w ws, unmarked s = true → s.rx = none → s.i2cQueue = w :: ws →
    step s = runAmpWord w { s with i2cQueue := ws }) ∧
  (∀ s w i, decodeAmpw w = .ok i → runAmpWord w s = exec i s) ∧
  (∀ s w ws, unmarked s = true → s.rx = none → s.i2cQueue = w :: ws → writeReady s →
    ((∃ r ∈ ampTable, r.addr = ampAddr w) → ∃ t, step s = .next t ∧ t.i2cQueue = ws ∧
      Memory.read t.amp (ampAddr w).toNat = some (ampValue w)) ∧
    ((∀ r ∈ ampTable, r.addr ≠ ampAddr w) → step s = .refused
      (.unlistedAmpRegister (ampAddr w) { s with i2cQueue := ws, refused := true })))

/-- R14, R194, R206 (log 1, 23): with nothing received and no register write to do, a step is the next
event of the schedule the run is given; with none, a frame while the bus is active, else nothing. -/
def Obligations.StepTakesTheNextEvent : Prop :=
  ∀ s, unmarked s = true → s.rx = none → s.i2cQueue = [] →
    (∀ e es, s.run.schedule = e :: es → step s = eventStep e { s with run.schedule := es }) ∧
    (s.run.schedule = [] → s.i2sActive = true → step s = eventStep (.frame none) s) ∧
    (s.run.schedule = [] → s.i2sActive = false → step s = .next s)

/-- R37, R190, R191 (log 6): a marked state does not step, and no step that answers a next state sets a
mark. -/
def Obligations.MarksStopTheRun : Prop :=
  (∀ s, unmarked s = false → ∀ t, step s ≠ .next t) ∧
  (∀ s t, step s = .next t → unmarked t = true)

/-! ### Board events -/

/-- R120, R121, R123 (the writes of `AmpInit` are queued: log 4): booting a board with P0_6 set, the other
board not of the same role, gives the role of the level and that role's values, and changes nothing
else; that the blue LED it lights is not LED_RX is the model's choice (D8, log 21). -/
def Obligations.BootGivesTheRoleOfTheLevel : Prop :=
  ∀ s b l, s.role b = none → (s.board b).p06 = some l →
    s.role (otherBoard b) ≠ some (if l = .high then Role.master else .slave) →
    ∃ t, eventStep (.boot b) s = .next t ∧ t.board (otherBoard b) = s.board (otherBoard b) ∧
      (l = .low → t.board b = { s.board b with role := some .slave, blue := some .on } ∧
        t = { s with board1 := t.board1, board2 := t.board2, swNext := 0xFF#8, txPending := none }) ∧
      (l = .high → t.board b = { s.board b with role := some .master } ∧
        t = { s with
          board1 := t.board1, board2 := t.board2, i2sActive := false, ampInitIdx := 0
          i2cReady := true, i2cQueue := ampTable.map fun r => r.addr ++ r.value })

/-- R120, R122, R211 (log 5): a boot is refused for a role clash, and is not enabled on a board whose P0_6
the user has not set or that has booted. -/
def Obligations.BootStops : Prop :=
  (∀ s b l, s.role b = none → (s.board b).p06 = some l →
    s.role (otherBoard b) = some (if l = .high then Role.master else .slave) →
    eventStep (.boot b) s = .refused (.roleClash { s with refused := true })) ∧
  (∀ s b, s.role b = none → (s.board b).p06 = none →
    eventStep (.boot b) s = .refused (.notEnabled (.p06Set b))) ∧
  (∀ s b r, s.role b = some r → eventStep (.boot b) s = .refused (.notEnabled (.notBootedYet b)))

/-- R124, R125, R130, R212: Switch 2 on a configured master with JP41 set (on every booted board: the model's
choice, log 17) starts the bus: active, the green LED on, the frame number 0, P0_5 drawn, nothing else
changed; with JP41 not set it is not enabled; while active it is refused, P0_5 drawn first. That the green LED is
not LED_RX is the model's choice (D8, log 21). -/
def Obligations.MasterPressStartsTheBus : Prop :=
  ∀ s b, s.role b = some .master → s.ampInitIdx = 40 →
    (s.i2sActive = false → s.jumpersRouted = true → ∃ u, pressShown b s u ∧ eventStep (.pressSw2 b) s =
      .next { u.setBoard b { u.board b with green := some .on } with i2sActive := true, frameNo := 0 }) ∧
    (s.i2sActive = false → s.jumpersRouted = false →
      eventStep (.pressSw2 b) s = .refused (.notEnabled .jumpersRouted)) ∧
    (s.i2sActive = true → ∃ u, pressShown b s u ∧
      eventStep (.pressSw2 b) s = .refused (.masterPressWhileActive { u with refused := true }))

/-- R127, R128, R130: Switch 2 on the slave queues the packet with the byte `sw_next` for `pkt_frames`
frames and complements the byte: 0xFF sends the first packet of R147, 0x00 the second (the CRC of a packet
with another byte is open, log 10); it is refused while the bus is inactive or a packet waits. That the byte
complements at the press is the spec's decision D9 and the model's choice of reading (log 22). -/
def Obligations.SlavePressQueuesThePacket : Prop :=
  ∀ s b, s.role b = some .slave → ∃ u, pressShown b s u ∧
    (s.i2sActive = true → s.txPending = none → ∃ w,
      w = buildPacket 0x0#4 0x01#8 [s.swNext, 0x00#8, 0x00#8, 0x00#8, 0x00#8] ∧
      (s.swNext = 0xFF#8 → w = 0xB700000000FF010D#64) ∧
      (s.swNext = 0x00#8 → w = 0x180000000000010D#64) ∧
      eventStep (.pressSw2 b) s = .next { u with
        txPending := some ⟨w, Config.pktFrames⟩, swNext := s.swNext ^^^ 0xFF#8 }) ∧
    (s.i2sActive = false →
      eventStep (.pressSw2 b) s = .refused (.slavePressWhileBusInactive { u with refused := true })) ∧
    (s.i2sActive = true → s.txPending ≠ none →
      eventStep (.pressSw2 b) s = .refused (.slavePressWhilePending { u with refused := true }))

/-- R25, R131, R205, R212: P0_6 is the user's to set until any board boots; after that a change on a booted board
is refused, and on the other, not yet booted, it is not enabled (R212 item 5; the model's reading: log 36). -/
def Obligations.RoleChangeAfterBootIsRefused : Prop :=
  (∀ s b l r, s.role b = some r →
    eventStep (.setP06 b l) s = .refused (.roleChangeAfterBoot { s with refused := true })) ∧
  (∀ s b l r, s.role b = none → s.role (otherBoard b) = some r →
    eventStep (.setP06 b l) s = .refused (.notEnabled (.p06BeforeBoot b))) ∧
  (∀ s b l, s.role .one = none → s.role .two = none →
    eventStep (.setP06 b l) s = .next (s.setBoard b { s.board b with p06 := some l }))

/-- R36, R82, R124, R128, R205, R212 (log 5, 17, 33): JP41 is the user's to set until any board boots; an
injected word is kept for the next frame; Switch 2 does not exist on a board that has not booted, nor on a
master before all 40 register writes are done. -/
def Obligations.SettingsAndPressRequirements : Prop :=
  (∀ s b p, s.role .one = none → s.role .two = none →
    eventStep (.setJp41 b p) s = .next (s.setBoard b { s.board b with jp41 := p })) ∧
  (∀ s b p c r, s.role c = some r →
    eventStep (.setJp41 b p) s = .refused (.notEnabled (.jumperBeforeBoot b))) ∧
  (∀ s w, eventStep (.inject w) s = .next { s with run.inject := some w }) ∧
  (∀ s b, s.role b = none → eventStep (.pressSw2 b) s = .refused (.notEnabled (.booted b))) ∧
  (∀ s b, s.role b = some .master → s.ampInitIdx ≠ 40 →
    eventStep (.pressSw2 b) s = .refused (.notEnabled .ampConfigured))

/-! ### The bus -/

/-- R91: the channel and pair of a bit position; the position returns to 0 at the frame sync. -/
def Obligations.PositionsOfAFrame : Prop :=
  (∀ p < 256, channelOf p = p / 32 ∧ pairOf p = p / 64 ∧ channelOf p < 8 ∧
    (channelOf p = (pairChannels (pairOf p)).1 ∨ channelOf p = (pairChannels (pairOf p)).2)) ∧
  (∀ p < 255, nextPosition p = p + 1) ∧ nextPosition 255 = 0 ∧ channelOf 130 = 4 ∧ pairOf 130 = 2

/-- R92: the bit clock and the frame sync. -/
def Obligations.BitClockOfTheBus : Prop :=
  Config.bitClock = 32 * 48000 * 8 ∧ Config.bitClock = 12288000 ∧
  Config.frameBits * Config.frameSync = Config.bitClock ∧ Config.frameSync = 48000

/-- R173 (the width is the spec's derivation, D19): slots 16 to 21 lie in bit positions 128 to 191 for no
width but 8, and then voltage begins in channel 4 and current in channel 5. -/
def Obligations.AmplifierSlotsAreEightBits : Prop :=
  (∀ w, (128 ≤ 16 * w ∧ 22 * w ≤ 192) ↔ w = Config.ampSlotBits) ∧
  slotStart 16 = 128 ∧ slotStart 20 = 160 ∧ slotChannel 16 = 4 ∧ slotChannel 20 = 5

/-- R106: `decode(encode(W)) = W`, for every `wire_map`. -/
def Obligations.WireMapRoundTrip : Prop := ∀ w, wireDecode (wireEncode w) = w

/-- R101, R102, R103, R104: an enabled frame answers a next state with one frame more on the lines. On
`TXM` the master drives the tone in channels 0 and 1 and its data in 6 and 7. On `RXM` the slave, if
booted, drives channels 2 and 3 with the waiting packet (if this frame sends it) or idle fill, and the
amplifier, if its output is enabled, channels 4 and 5. Every other cell is high impedance. -/
def Obligations.FramePlacesEveryAgent : Prop :=
  ∀ note s, frameReady s → ∃ t f, eventStep (.frame note) s = .next t ∧ t.history = s.history ++ [f] ∧
    f.txm = ⟨.driven .master (Config.tone s.run.draws 0), .driven .master (Config.tone s.run.draws 1),
      .hiZ, .hiZ, .hiZ, .hiZ,
      .driven .master (Config.mData s.run.draws 6), .driven .master (Config.mData s.run.draws 7)⟩ ∧
    f.rxm.c0 = .hiZ ∧ f.rxm.c1 = .hiZ ∧ f.rxm.c6 = .hiZ ∧ f.rxm.c7 = .hiZ ∧
    (s.slaveBoard = none → f.rxm.c2 = .hiZ ∧ f.rxm.c3 = .hiZ) ∧
    (s.slaveBoard ≠ none →
      (∀ p, s.txPending = some p → sendNow note s = true →
        f.rxm.c2 = .driven .slave (wireEncode p.word).1 ∧
        f.rxm.c3 = .driven .slave (wireEncode p.word).2) ∧
      (s.txPending = none ∨ sendNow note s = false →
        f.rxm.c2 = .driven .slave (Config.idleFill s.run.draws 2) ∧
        f.rxm.c3 = .driven .slave (Config.idleFill s.run.draws 3))) ∧
    (if s.ampInitIdx = 40 ∧ Config.ampGlobalEn = true then
      f.rxm.c4 = .driven .amp (Config.vData s.run.draws) ∧ f.rxm.c5 = .driven .amp (Config.iData s.run.draws)
     else f.rxm.c4 = .hiZ ∧ f.rxm.c5 = .hiZ)

/-- R100, R103: what an enabled frame changes beside the lines: a packet that is sent is to be placed in
one frame fewer (none after the last), any other stays; an injected word is used up; nothing else changes
but the received pair and the count of draws; `frame_no` waits for the master's reaction (log 3). -/
def Obligations.FrameChangesOnlyTheBus : Prop :=
  ∀ note s t, frameReady s → eventStep (.frame note) s = .next t →
    (∀ p, s.txPending = some p → s.slaveBoard ≠ none → sendNow note s = true →
      t.txPending = if p.left = 1 then none else some ⟨p.word, p.left - 1⟩) ∧
    (s.txPending = none ∨ s.slaveBoard = none ∨ sendNow note s = false →
      t.txPending = s.txPending) ∧
    t.rx ≠ none ∧ (∀ n < s.history.length, t.history[n]? = s.history[n]?) ∧
    (∀ a, Memory.read t.amp a = Memory.read s.amp a) ∧
    t = { s with
      history := t.history, txPending := t.txPending, rx := t.rx, run.inject := none
      run.draws := s.run.draws + 1 }

/-- R58, R106, R107 (D28; log 13, 15, 33), every arm of `recv` for `PAIR_1`: an injected word is received as it
is (R82). Else, under the premise `NoNoise` the master receives, in the frame in which the slave places it, the
very word the slave placed, and in a frame in which it sends none the idle fill; without the premise the
two cells the slave drives are each a draw; with no slave they float, with or without the premise. -/
def Obligations.MasterReceivesThePlacedWord : Prop :=
  ∀ note s t, frameReady s → eventStep (.frame note) s = .next t →
    (∀ w, s.run.inject = some w → t.rx = some w) ∧
    (s.run.inject = none →
      (s.slaveBoard ≠ none → s.run.noNoise = true →
        (∀ p, s.txPending = some p → sendNow note s = true → t.rx = some p.word) ∧
        (s.txPending = none ∨ sendNow note s = false → t.rx = some
          (wireDecode (Config.idleFill s.run.draws 2, Config.idleFill s.run.draws 3)))) ∧
      (s.slaveBoard ≠ none → s.run.noNoise = false →
        t.rx = some (wireDecode (Config.noise s.run.draws 2, Config.noise s.run.draws 3))) ∧
      (s.slaveBoard = none →
        t.rx = some (wireDecode (Config.float s.run.draws 2, Config.float s.run.draws 3))))

/-- R105: two drivers in one cell are a fault that records line, frame and channel; with boards of
distinct roles no cell of a frame has two drivers; two masters contend for channel 0 of `TXM` (that the
state the fault carries holds nothing of the frame itself: the model's choice, log 25). -/
def Obligations.ContentionIsFoundAndExcluded : Prop :=
  (∀ ds l c, contention ds = some (l, c) → 1 < (drivesOf ds l c).length) ∧
  (∀ ds l c, c < 8 → 1 < (drivesOf ds l c).length → contention ds ≠ none) ∧
  (∀ note s, rolesDistinct s = true → contention (allDrives note s) = none) ∧
  (∀ note s, s.i2sActive = true → s.jumpersRouted = true → ampIsTable s → s.role .one = some .master →
    s.role .two = some .master → eventStep (.frame note) s = .fault (.busContention .txm s.frameNo 0
      { s with faults := s.faults ++ [.busContention .txm s.frameNo 0] }))

/-- R95, R100, R170, R191, R212 (log 5, 9, 17): a frame with the bus inactive, without a master or with JP41
not set does not exist; else it is refused where `amp[]` is not the table, whether a register holds another
value or none. -/
def Obligations.FramesThatStop : Prop :=
  (∀ note s, s.i2sActive = false → eventStep (.frame note) s = .refused (.notEnabled .busActive)) ∧
  (∀ note s, s.i2sActive = true → s.masterBoard = none →
    eventStep (.frame note) s = .refused (.notEnabled .masterBooted)) ∧
  (∀ note s, s.i2sActive = true → s.masterBoard.isSome = true → s.jumpersRouted = false →
    eventStep (.frame note) s = .refused (.notEnabled .jumpersRouted)) ∧
  (∀ note s r, s.i2sActive = true → s.masterBoard.isSome = true → s.jumpersRouted = true →
    r ∈ ampTable → Memory.read s.amp r.addr.toNat ≠ some r.value →
    eventStep (.frame note) s = .refused (.unknownAmpConfig { s with refused := true }))

/-! ### Reset and invariants -/

/-- R39: the values the spec gives at reset, and no value where it gives none. -/
def Obligations.ResetValuesOfTheSystem : Prop :=
  State.reset.i2sActive = false ∧ State.reset.swNext = 0xFF#8 ∧ State.reset.txPending = none ∧
  State.reset.ampInitIdx = 0 ∧ State.reset.frameNo = 0 ∧ State.reset.history = [] ∧
  State.reset.faults = [] ∧ State.reset.refused = false ∧
  (∀ b, State.reset.role b = none ∧ (State.reset.board b).p05 = none ∧
    (State.reset.board b).p06 = none ∧ (State.reset.board b).jp41 = .pos12 ∧
    ∀ c, State.reset.led b c = none)

/-- R167: after power-up the 29 rows marked default hold the table's value and the other 11 no value. -/
def Obligations.PowerUpValuesOfTheAmplifier : Prop :=
  (∀ r ∈ ampTable, Memory.read State.reset.amp r.addr.toNat = if r.isDefault then some r.value else none) ∧
  (ampTable.filter (·.isDefault)).length = 29 ∧ (ampTable.filter (!·.isDefault)).length = 11 ∧
  Memory.wf State.reset.amp = true

/-- The invariant holds at reset. -/
def Obligations.ResetMeetsTheInvariant : Prop := Safety.Inv State.reset

/-- Every step from any state that meets the invariant gives a state that meets it: roles stay distinct
and those of the pins (R120, R122), `AmpInit` runs in order and before any frame (R60, R168), the frame
count, the waiting packet and the pair allocation keep their rules (R30, R33, R57). That the slave's blue LED
stays on, and the master's green LED while the bus is active, is said of the model, in which LED_RX is an LED
of its own (R121, D8, log 21). -/
def Obligations.StepKeepsTheInvariant : Prop := ∀ s t, Safety.Inv s → step s = .next t → Safety.Inv t

/-- Every step keeps the canonical form of the amplifier's memory, from any state. -/
def Obligations.StepKeepsTheMemoryForm : Prop :=
  ∀ s t, Memory.wf s.amp = true → step s = .next t → Memory.wf t.amp = true

/-- R60: a step from a state that meets the invariant leaves the bus active only with all 40 register writes
done and every register equal to the table. -/
def Obligations.ActiveBusHasAConfiguredAmplifier : Prop :=
  ∀ s t, Safety.Inv s → step s = .next t → t.i2sActive = true → t.ampInitIdx = 40 ∧ ampIsTable t

/-! ### Rules of the whole machine -/

/-- R24, R199: no step changes the role of a booted board. -/
def Obligations.RolesNeverChange : Prop :=
  ∀ s t b r, step s = .next t → s.role b = some r → t.role b = some r

/-- R27: from a state that meets the invariant nothing makes an active bus inactive. -/
def Obligations.ActiveBusStaysActive : Prop :=
  ∀ s t, Safety.Inv s → step s = .next t → s.i2sActive = true → t.i2sActive = true

/-- R132, R150, R206 (whatever `crc8` is beyond its two pairs, log 10): LED_RX of a board changes in no step
but the master's reaction to one of the two packets of R147, which sets it to the packet's level. That the
second packet sets it off is R150's own inference, not the source's (log 21), that LED_RX is an LED of its own,
which neither boot nor the bus's start writes, is D8's (log 21), and that a word with a bad CRC changes no LED
rests on the spec's decision D6 (log 20): all three are the model's choice of reading. -/
def Obligations.LedRxFollowsOnlyThePackets : Prop :=
  ∀ s t b, step s = .next t → t.led b .ledRx ≠ s.led b .ledRx →
    s.masterBoard = some b ∧
    ((s.rx = some 0xB700000000FF010D#64 ∧ t.led b .ledRx = some .on) ∨
     (s.rx = some 0x180000000000010D#64 ∧ t.led b .ledRx = some .off))

/-- R26, R121, R124: in the model the blue LED of a board changes only when it boots as the slave, its green LED
only when Switch 2 on the master starts the bus; both are then on. That no packet changes either rests on the
model's choice that LED_RX is an LED of its own (D8, log 21): R26 and N12 leave open whether the LED a packet
drives is the blue one, the green one or another, and R121's "never writes it again" is said of the model. -/
def Obligations.NamedLedsChangeOnlyAtBootAndStart : Prop :=
  ∀ s t b, step s = .next t →
    (t.led b .blue ≠ s.led b .blue →
      s.role b = none ∧ t.role b = some .slave ∧ t.led b .blue = some .on) ∧
    (t.led b .green ≠ s.led b .green →
      s.role b = some .master ∧ s.i2sActive = false ∧ t.i2sActive = true ∧ t.led b .green = some .on)

/-- R33, R35, R58: frames on the lines are only ever added at the end, and one at a time. -/
def Obligations.LinesOnlyGrow : Prop :=
  ∀ s t, step s = .next t → t.history = s.history ∨ ∃ f, t.history = s.history ++ [f]

/-- R26, R29, R40: no rule reads an LED or P0_5: two states that differ only in these outputs step alike, their
next states differ only in these outputs, and each LED and each P0_5 is either kept in both or set to the
same value in both (so no step flips one, R150). -/
def Obligations.OutputsAreNeverRead : Prop :=
  ∀ s₁ s₂ t₁, withoutOutputs s₁ = withoutOutputs s₂ → step s₁ = .next t₁ →
    ∃ t₂, step s₂ = .next t₂ ∧ withoutOutputs t₁ = withoutOutputs t₂ ∧
      (∀ b c, t₁.led b c = t₂.led b c ∨ (t₁.led b c = s₁.led b c ∧ t₂.led b c = s₂.led b c)) ∧
      (∀ b, (t₁.board b).p05 = (t₂.board b).p05 ∨
        ((t₁.board b).p05 = (s₁.board b).p05 ∧ (t₂.board b).p05 = (s₂.board b).p05))

/-- R25, R36, R205, R212: once a board has booted, no step changes a jumper or the level of P0_6, of either
board (of P0_6 of a board not yet booted, the model's reading: log 36). -/
def Obligations.SettingsStayAfterBoot : Prop :=
  ∀ s t b c r, step s = .next t → s.role c = some r →
    (t.board b).jp41 = (s.board b).jp41 ∧ (t.board b).p06 = (s.board b).p06

/-- R11 (log 35, 37): the observation reads the register: the value that stands in it; where it holds none, some
byte of which nothing is known; outside the 40 addresses nothing. What a register write wrote (R51, R165;
any value: log 26) is read back. -/
def Obligations.ObservationReadsTheRegister : Prop :=
  (∀ s a v, (∃ r ∈ ampTable, r.addr = a) → Memory.read s.amp a.toNat = some v → memRead s a = some v) ∧
  (∀ s a, (∃ r ∈ ampTable, r.addr = a) → ∃ v, memRead s a = some v) ∧
  (∀ s a, (∀ r ∈ ampTable, r.addr ≠ a) → memRead s a = none) ∧
  (∀ s (a : RegAddr) (v : Byte), writeReady s → (∃ r ∈ ampTable, r.addr = a) →
    ∃ t, runAmpWord (a ++ v) s = .next t ∧ memRead t a = some v)

/-- R40, R190: no step, from any state, ends in the fault `ReadOfUnspecified`; a step that ends in
`BusContention` records that fault and no other. The frame's comparison of `amp[]` with the table takes a
register that holds no value as different from its row, and does not fault (the model's choice: log 9). -/
def Obligations.NoStepEndsInReadOfUnspecified : Prop :=
  ∀ s name, (∀ m, step s ≠ .fault (.readOfUnspecified name m)) ∧
    (∀ l n c m, step s = .fault (.busContention l n c m) → m.faults = [.busContention l n c])

/-- R15: the schedule of user events is no state of the system: whatever an event or a unit does, it does
alike whatever else is scheduled, and leaves the schedule as it is. -/
def Obligations.TheScheduleIsOnlyTaken : Prop :=
  (∀ e es s t, eventStep e s = .next t →
    eventStep e { s with run.schedule := es } = .next { t with run.schedule := es } ∧
    t.run.schedule = s.run.schedule) ∧
  (∀ i es s t, exec i s = .next t →
    exec i { s with run.schedule := es } = .next { t with run.schedule := es } ∧
    t.run.schedule = s.run.schedule)

/-- R15, R39, R206: every state of every run of the system, under every schedule of user events and all other inputs
of a run, meets the invariant; of its LEDs see log 21. -/
def Obligations.EveryRunMeetsTheInvariant : Prop :=
  ∀ inputs n t, Host.Core.run core n (start inputs) = .next t → Safety.Inv t
end

