-- ==== Sys2Proof/Laws/Decode.lean ====
section
/-!
SUPPORT. The fields of a packet word and of a register write: each field of an assembled word is what it was
assembled from, and a word is assembled from its fields (30_encoding.md R71, R73).
-/

namespace Sys2Proof.Laws

open Sys2Proof Sys2Proof.Machine

section Fields

variable (s : Nibble) (l : Byte) (d : PktData) (c : Byte) (w : PktWord)

/-- A bit of an assembled packet word. -/
theorem pktWord_bit (i : Nat) : (pktWord s l d c).getLsbD i =
    if i < 4 then Config.startNibble.getLsbD i
    else if i < 8 then s.getLsbD (i - 4)
    else if i < 16 then l.getLsbD (i - 8)
    else if i < 56 then d.getLsbD (i - 16)
    else c.getLsbD (i - 56) := by
  simp only [pktWord, BitVec.getLsbD_append]
  repeat' split
  all_goals first | rfl | omega

@[simp] theorem pktStart_pktWord : pktStart (pktWord s l d c) = Config.startNibble := by
  ext i hi
  simp only [pktStart, BitVec.getElem_extractLsb', pktWord_bit]
  rw [if_pos (by omega), ← BitVec.getLsbD_eq_getElem]; congr 1; omega

@[simp] theorem pktSource_pktWord : pktSource (pktWord s l d c) = s := by
  ext i hi
  simp only [pktSource, BitVec.getElem_extractLsb', pktWord_bit]
  rw [if_neg (by omega), if_pos (by omega), ← BitVec.getLsbD_eq_getElem]; congr 1; omega

@[simp] theorem pktLength_pktWord : pktLength (pktWord s l d c) = l := by
  ext i hi
  simp only [pktLength, BitVec.getElem_extractLsb', pktWord_bit]
  rw [if_neg (by omega), if_neg (by omega), if_pos (by omega), ← BitVec.getLsbD_eq_getElem]
  congr 1; omega

@[simp] theorem pktData_pktWord : pktData (pktWord s l d c) = d := by
  ext i hi
  simp only [pktData, BitVec.getElem_extractLsb', pktWord_bit]
  rw [if_neg (by omega), if_neg (by omega), if_neg (by omega), if_pos (by omega),
    ← BitVec.getLsbD_eq_getElem]
  congr 1; omega

@[simp] theorem pktCrc_pktWord : pktCrc (pktWord s l d c) = c := by
  ext i hi
  simp only [pktCrc, BitVec.getElem_extractLsb', pktWord_bit]
  rw [if_neg (by omega), if_neg (by omega), if_neg (by omega), if_neg (by omega),
    ← BitVec.getLsbD_eq_getElem]
  congr 1; omega

/-- A word with the start nibble is assembled from its fields. -/
theorem pktWord_of_fields (h : pktStart w = Config.startNibble) :
    pktWord (pktSource w) (pktLength w) (pktData w) (pktCrc w) = w := by
  ext i hi
  rw [← BitVec.getLsbD_eq_getElem, pktWord_bit, ← BitVec.getLsbD_eq_getElem, ← h]
  simp only [pktStart, pktSource, pktLength, pktData, pktCrc, BitVec.getLsbD_extractLsb']
  split
  · simp [*]
  · split
    · simp [show i - 4 < 4 by omega, show 4 + (i - 4) = i by omega]
    · split
      · simp [show i - 8 < 8 by omega, show 8 + (i - 8) = i by omega]
      · split
        · simp [show i - 16 < 40 by omega, show 16 + (i - 16) = i by omega]
        · simp [show i - 56 < 8 by omega, show 56 + (i - 56) = i by omega]

/-- Byte 0 of an assembled word: the source above the start nibble (R141). -/
@[simp] theorem wordByte0_pktWord : wordByte (pktWord s l d c) 0 = s ++ Config.startNibble := by
  ext i hi
  rw [← BitVec.getLsbD_eq_getElem (x := s ++ Config.startNibble), BitVec.getLsbD_append]
  simp only [wordByte, BitVec.getElem_extractLsb', pktWord_bit, Nat.mul_zero, Nat.zero_add, hi,
    if_true]

/-- Byte 1 of an assembled word: the length (R141). -/
@[simp] theorem wordByte1_pktWord : wordByte (pktWord s l d c) 1 = l := pktLength_pktWord s l d c

/-- Bytes 2 to 6 of an assembled word: the data bytes (R141). -/
theorem wordByte_data_pktWord {j : Nat} (hj : j < 5) :
    wordByte (pktWord s l d c) (j + 2) = dataByte d j := by
  ext i hi
  simp only [wordByte, dataByte, BitVec.getElem_extractLsb', pktWord_bit]
  rw [if_neg (by omega), if_neg (by omega), if_neg (by omega), if_pos (by omega)]
  congr 1; omega

/-- Byte 7 of an assembled word: the CRC (R141). -/
@[simp] theorem wordByte7_pktWord : wordByte (pktWord s l d c) 7 = c := pktCrc_pktWord s l d c

/-- The buffer of an assembled word (R141). -/
theorem unpack_pktWord : unpack (pktWord s l d c) =
    [s ++ Config.startNibble, l] ++ dataBytes d ++ [c] := by
  simp only [unpack, dataBytes, wordByte0_pktWord, wordByte1_pktWord, wordByte7_pktWord,
    wordByte_data_pktWord s l d c (j := 0) (by decide),
    wordByte_data_pktWord s l d c (j := 1) (by decide),
    wordByte_data_pktWord s l d c (j := 2) (by decide),
    wordByte_data_pktWord s l d c (j := 3) (by decide),
    wordByte_data_pktWord s l d c (j := 4) (by decide)]
  rfl

/-- `crc8` reads byte 7 of its buffer as zero, whatever it holds (R78, R146). -/
theorem crc8Of_set (other : List Byte → Byte) (buf : List Byte) (v : Byte) :
    crc8Of other (buf.set 7 v) = crc8Of other buf := by
  simp only [crc8Of, List.set_set]

/-- The default instance of R145 is one of the instances of R144: it has both pairs. -/
theorem crc8Of_default (buf : List Byte) : crc8Of crc8Default buf = crc8Default buf := by
  have h : ∀ b, buf.set 7 0x00#8 = b → b = b.set 7 0x00#8 → crc8Default buf = crc8Default b := by
    rintro b rfl _
    simp only [crc8Default, List.set_set]
  unfold crc8Of
  dsimp only
  split
  · rw [h _ ‹_› rfl]; decide +kernel
  · split
    · rw [h _ ‹_› rfl]; decide +kernel
    · simp only [crc8Default, List.set_set]

/-- The CRC of an assembled word's buffer reads its source, length and data and not its CRC (R146). -/
theorem crc8_pktWord : crc8 (unpack (pktWord s l d c)) =
    crc8 ([s ++ Config.startNibble, l] ++ dataBytes d ++ [0x00#8]) := by
  rw [unpack_pktWord]
  exact (crc8Of_set _ ([s ++ Config.startNibble, l] ++ dataBytes d ++ [c]) 0x00#8).symm

/-- An assembled word passes the CRC check exactly where its CRC is that of its other fields (R148). -/
theorem crcOk_pktWord : crcOk (pktWord s l d c) = true ↔
    c = crc8 ([s ++ Config.startNibble, l] ++ dataBytes d ++ [0x00#8]) := by
  rw [crcOk, crcOkWith, crc8_pktWord, pktCrc_pktWord, beq_iff_eq, eq_comm]

/-- The default CRC of an assembled word's buffer, as the fold of R145. -/
theorem crc8Default_pktWord : crc8Default (unpack (pktWord s l d c)) =
    ([s ++ Config.startNibble, l] ++ dataBytes d ++ [0x00#8]).foldl crcByte 0x00#8 := by
  simp only [crc8Default, unpack_pktWord]; rfl

/-- A bit of a packed buffer: byte 0 is the lowest (R142). -/
theorem pack_bit (b : Byte) (bs : List Byte) (i : Nat) : (pack (b :: bs)).getLsbD i =
    if i < 8 then b.getLsbD i else (decide (i < 64) && (pack bs).getLsbD (i - 8)) := by
  have h : b.setWidth 64 &&& (pack bs) <<< 8 = 0#64 := by
    ext j hj
    by_cases hj8 : j < 8
    · simp [hj8]
    · simp [hj8, show b.getLsbD j = false from BitVec.getLsbD_of_ge _ _ (by omega)]
  rw [pack, BitVec.add_eq_or_of_and_eq_zero _ _ h, BitVec.getLsbD_or, BitVec.getLsbD_setWidth,
    BitVec.getLsbD_shiftLeft]
  by_cases hi : i < 8
  · simp [hi, show i < 64 by omega]
  · simp [hi, show b.getLsbD i = false from BitVec.getLsbD_of_ge _ _ (by omega)]

/-- Packing the bytes of a word gives the word back (R142). -/
theorem pack_unpack : pack (unpack w) = w := by
  ext i hi
  rw [← BitVec.getLsbD_eq_getElem, ← BitVec.getLsbD_eq_getElem]
  have byte : ∀ j, 8 * j ≤ i → i < 8 * j + 8 →
      (wordByte w j).getLsbD (i - 8 * j) = w.getLsbD i := by
    intro j h1 h2
    simp only [wordByte, BitVec.getLsbD_extractLsb', show i - 8 * j < 8 by omega, decide_true,
      Bool.true_and, show 8 * j + (i - 8 * j) = i by omega]
  simp only [unpack, pack_bit, Nat.sub_sub, Nat.reduceAdd, show ∀ k, i - k < 64 from fun k => by omega,
    hi, decide_true, Bool.true_and]
  by_cases h0 : i < 8
  · simpa [h0] using byte 0 (by omega) (by omega)
  by_cases h1 : i < 16
  · simpa [h0, show i - 8 < 8 by omega] using byte 1 (by omega) (by omega)
  by_cases h2 : i < 24
  · simpa [h0, show ¬ i - 8 < 8 by omega, show i - 16 < 8 by omega] using byte 2 (by omega) (by omega)
  by_cases h3 : i < 32
  · simpa [h0, show ¬ i - 8 < 8 by omega, show ¬ i - 16 < 8 by omega, show i - 24 < 8 by omega]
      using byte 3 (by omega) (by omega)
  by_cases h4 : i < 40
  · simpa [h0, show ¬ i - 8 < 8 by omega, show ¬ i - 16 < 8 by omega, show ¬ i - 24 < 8 by omega,
      show i - 32 < 8 by omega] using byte 4 (by omega) (by omega)
  by_cases h5 : i < 48
  · simpa [h0, show ¬ i - 8 < 8 by omega, show ¬ i - 16 < 8 by omega, show ¬ i - 24 < 8 by omega,
      show ¬ i - 32 < 8 by omega, show i - 40 < 8 by omega] using byte 5 (by omega) (by omega)
  by_cases h6 : i < 56
  · simpa [h0, show ¬ i - 8 < 8 by omega, show ¬ i - 16 < 8 by omega, show ¬ i - 24 < 8 by omega,
      show ¬ i - 32 < 8 by omega, show ¬ i - 40 < 8 by omega, show i - 48 < 8 by omega]
      using byte 6 (by omega) (by omega)
  · simpa [h0, show ¬ i - 8 < 8 by omega, show ¬ i - 16 < 8 by omega, show ¬ i - 24 < 8 by omega,
      show ¬ i - 32 < 8 by omega, show ¬ i - 40 < 8 by omega, show ¬ i - 48 < 8 by omega,
      show i - 56 < 8 by omega] using byte 7 (by omega) (by omega)

end Fields

/-! ### The default CRC is linear (R145) -/

theorem crcShift_xor (a b : Byte) : crcShift (a ^^^ b) = crcShift a ^^^ crcShift b := by
  have h : ∀ a : Byte, crcShift a = (a <<< 1) ^^^ (if a.getLsbD 7 then 7#8 else 0#8) := by
    intro a; unfold crcShift; split <;> simp
  rw [h a, h b, h, BitVec.getLsbD_xor, BitVec.shiftLeft_xor_distrib]
  generalize a <<< 1 = x
  generalize b <<< 1 = y
  cases a.getLsbD 7 <;> cases b.getLsbD 7 <;> simp
  · ac_rfl
  · ac_rfl
  · rw [show x ^^^ 7#8 ^^^ (y ^^^ 7#8) = x ^^^ y ^^^ (7#8 ^^^ 7#8) by ac_rfl]; simp

theorem crcShifts_xor (n : Nat) (a b : Byte) :
    crcShifts n (a ^^^ b) = crcShifts n a ^^^ crcShifts n b := by
  induction n generalizing a b with
  | zero => rfl
  | succ n ih => simp [crcShifts, crcShift_xor, ih]

theorem crcByte_xor (a b c d : Byte) : crcByte (a ^^^ b) (c ^^^ d) = crcByte a c ^^^ crcByte b d := by
  unfold crcByte
  rw [← crcShifts_xor]
  congr 1; ac_rfl

theorem wordByte_xor (v w : PktWord) (i : Nat) : wordByte (v ^^^ w) i = wordByte v i ^^^ wordByte w i := by
  ext j hj; simp [wordByte]

section RegisterWrites

variable (a : RegAddr) (v : Byte) (w : AmpWord)

@[simp] theorem ampAddr_append : ampAddr (a ++ v) = a := by
  ext i hi
  simp only [ampAddr, BitVec.getElem_extractLsb', BitVec.getLsbD_append]
  rw [if_neg (by omega), ← BitVec.getLsbD_eq_getElem]; congr 1; omega

@[simp] theorem ampValue_append : ampValue (a ++ v) = v := by
  ext i hi
  simp only [ampValue, BitVec.getElem_extractLsb', BitVec.getLsbD_append]
  rw [if_pos (by omega), ← BitVec.getLsbD_eq_getElem]; congr 1; omega

/-- A register write is its address and its value. -/
theorem ampWord_of_fields : ampAddr w ++ ampValue w = w := by
  ext i hi
  rw [← BitVec.getLsbD_eq_getElem, BitVec.getLsbD_append, ← BitVec.getLsbD_eq_getElem]
  simp only [ampAddr, ampValue, BitVec.getLsbD_extractLsb']
  split
  · simp [*]
  · simp [show i - 8 < 16 by omega, show 8 + (i - 8) = i by omega]

end RegisterWrites

/-- A table lookup answers a row of the list with that address. -/
theorem findAmpInstr_mem {a : RegAddr} {l : List (AmpRow × Instr)} {r : AmpRow} {i : Instr}
    (h : findAmpInstr a l = some (r, i)) : (r, i) ∈ l ∧ r.addr = a := by
  induction l with
  | nil => simp [findAmpInstr] at h
  | cons p l ih =>
    obtain ⟨q, j⟩ := p
    unfold findAmpInstr at h
    split at h
    · simp only [Option.some.injEq, Prod.mk.injEq] at h
      obtain ⟨rfl, rfl⟩ := h
      exact ⟨by simp, ‹_›⟩
    · exact ⟨by simp [(ih h).1], (ih h).2⟩

/-- Every row of the table with its instruction: the row's word is the instruction's encoding. -/
theorem encode_of_row : ∀ p ∈ ampTable.zip ampInstrs, encode p.2 = .ampw24 p.1.word := by decide

/-- Every instruction of format `AMPW24` decodes from its encoding. -/
theorem decodeAmpw_of_row : ∀ p ∈ ampTable.zip ampInstrs, decodeAmpw p.1.word = .ok p.2 := by
  decide +kernel

/-- A table lookup fails exactly where no row of the list has the address. -/
theorem findAmpInstr_eq_none {a : RegAddr} {l : List (AmpRow × Instr)} :
    findAmpInstr a l = none ↔ ∀ p ∈ l, p.1.addr ≠ a := by
  induction l with
  | nil => simp [findAmpInstr]
  | cons p l ih =>
    unfold findAmpInstr
    split <;> simp_all

/-- Every row of the table has an instruction, and every instruction of the list a row. -/
theorem mem_ampTable_iff {r : AmpRow} : r ∈ ampTable ↔ ∃ i, (r, i) ∈ ampTable.zip ampInstrs := by
  have h : (ampTable.zip ampInstrs).map Prod.fst = ampTable := by decide +kernel
  conv_lhs => rw [← h]
  simp

/-- The decoder rejects a register write as unlisted exactly where no row has its address (R80). -/
theorem decodeAmpw_unlisted {w : AmpWord} :
    decodeAmpw w = .error (.unlistedAmpRegister (ampAddr w)) ↔ ∀ r ∈ ampTable, r.addr ≠ ampAddr w := by
  have h : findAmpInstr (ampAddr w) (ampTable.zip ampInstrs) = none ↔
      ∀ r ∈ ampTable, r.addr ≠ ampAddr w := by
    rw [findAmpInstr_eq_none]
    exact ⟨fun h r hr => (mem_ampTable_iff.1 hr).elim fun i hi => h _ hi,
      fun h p hp => h _ (mem_ampTable_iff.2 ⟨p.2, hp⟩)⟩
  rw [← h]
  unfold decodeAmpw
  generalize findAmpInstr (ampAddr w) (ampTable.zip ampInstrs) = o
  rcases o with _ | ⟨r, i⟩
  · simp
  · simp only [reduceCtorEq, iff_false]
    split <;> simp

/-- A register write the decoder accepts is a row's word, and the instruction that row's. -/
theorem decodeAmpw_ok {w : AmpWord} {i : Instr} (h : decodeAmpw w = .ok i) :
    ∃ r, (r, i) ∈ ampTable.zip ampInstrs ∧ w = r.word := by
  unfold decodeAmpw at h
  split at h
  · simp at h
  · rename_i r j hf
    split at h
    · rename_i hv
      simp only [Except.ok.injEq] at h
      subst h
      obtain ⟨hm, ha⟩ := findAmpInstr_mem hf
      exact ⟨r, hm, by rw [AmpRow.word, ha, hv, ampWord_of_fields]⟩
    · simp at h

/-- The decoder accepts a packet word exactly where the table's match and mask do (R77). -/
theorem decodePkt_ok {w : PktWord} {i : Instr} : decodePkt w = .ok i ↔
    pktStart w = Config.startNibble ∧ pktSource w = Config.srcGpio ∧
      i = .pktSrcGpio (pktLength w) (pktData w) (pktCrc w) := by
  unfold decodePkt
  split
  · simp_all
  · split <;> simp_all [eq_comm]

end Sys2Proof.Laws
end

