-- ==== Sys2Proof/Laws/Memory.lean ====
section
/-!
SUPPORT. The laws of the amplifier's register space: a read after a write, writes to distinct addresses
commute, and every write keeps the canonical form (20_memory.md R51, R52; 43_max98388.md R165).
-/

namespace Sys2Proof.Laws

open Sys2Proof.Machine

/-! ### Reading -/

theorem read_insert_self (m : Memory) (a : Nat) (v : Byte) :
    Memory.read (Memory.insert m a v) a = some v := by
  induction m with
  | nil => simp [Memory.insert, Memory.read]
  | cons c m ih =>
    obtain ⟨b, w⟩ := c
    unfold Memory.insert
    split
    · simp [Memory.read]
    · split
      · simp [Memory.read]
      · have h : ¬ b = a := fun h => by omega
        simpa [Memory.read, h] using ih

theorem read_insert_other (m : Memory) {a b : Nat} (v : Byte) (h : b ≠ a) :
    Memory.read (Memory.insert m a v) b = Memory.read m b := by
  induction m with
  | nil => simp [Memory.insert, Memory.read, Ne.symm h]
  | cons c m ih =>
    obtain ⟨d, w⟩ := c
    unfold Memory.insert
    split
    · simp [Memory.read, Ne.symm h]
    · split
      · rename_i _ hd
        subst hd
        simp [Memory.read, Ne.symm h]
      · simp only [Memory.read, ih]

theorem read_filter_self (m : Memory) (a : Nat) :
    Memory.read (m.filter fun c => c.1 != a) a = ampPowerUp a := by
  induction m with
  | nil => rfl
  | cons c m ih =>
    obtain ⟨b, w⟩ := c
    by_cases h : b = a
    · simpa [h] using ih
    · simpa [h, Memory.read] using ih

theorem read_filter_other (m : Memory) {a b : Nat} (h : b ≠ a) :
    Memory.read (m.filter fun c => c.1 != a) b = Memory.read m b := by
  induction m with
  | nil => rfl
  | cons c m ih =>
    obtain ⟨d, w⟩ := c
    by_cases hd : d = a
    · subst hd
      simpa [Memory.read, Ne.symm h] using ih
    · simp only [List.filter_cons, bne_iff_ne, ne_eq, hd, not_false_iff, if_true, Memory.read, ih]

/-- A register holds what was written to it last (R51). -/
@[simp] theorem read_write_self (m : Memory) (a : Nat) (v : Byte) :
    Memory.read (Memory.write m a v) a = some v := by
  unfold Memory.write
  split
  · rename_i h; rw [read_filter_self, h]
  · exact read_insert_self m a v

/-- A write leaves every other register alone (R51). -/
theorem read_write_other (m : Memory) {a b : Nat} (v : Byte) (h : b ≠ a) :
    Memory.read (Memory.write m a v) b = Memory.read m b := by
  unfold Memory.write
  split
  · exact read_filter_other m h
  · exact read_insert_other m v h

/-! ### The canonical form -/

/-- Every address of the list is above `a`. -/
def above (a : Nat) (m : Memory) : Prop := ∀ c ∈ m, a < c.1

theorem rising_cons (c : Host.Cell) (m : Memory) :
    Memory.rising (c :: m) = true ↔ above c.1 m ∧ Memory.rising m = true := by
  induction m generalizing c with
  | nil => simp [Memory.rising, above]
  | cons d m ih =>
    simp only [Memory.rising, Bool.and_eq_true, decide_eq_true_eq, ih]
    refine ⟨fun ⟨h, hd, hm⟩ => ⟨?_, hd, hm⟩, fun ⟨h, hd, hm⟩ => ⟨h d (by simp), hd, hm⟩⟩
    intro e he
    rcases List.mem_cons.1 he with rfl | he
    · exact h
    · exact lt_trans h (hd e he)

theorem mem_insert {m : Memory} {a : Nat} {v : Byte} {c : Host.Cell}
    (h : c ∈ Memory.insert m a v) : c = (a, v) ∨ c ∈ m := by
  induction m with
  | nil => simpa [Memory.insert] using h
  | cons d m ih =>
    unfold Memory.insert at h
    split at h
    · rcases List.mem_cons.1 h with h | h <;> simp [h]
    · split at h
      · rcases List.mem_cons.1 h with h | h <;> simp [h]
      · rcases List.mem_cons.1 h with h | h
        · simp [h]
        · rcases ih h with h | h <;> simp [h]

theorem insert_rising {m : Memory} (a : Nat) (v : Byte) (h : Memory.rising m = true) :
    Memory.rising (Memory.insert m a v) = true := by
  induction m with
  | nil => rfl
  | cons d m ih =>
    obtain ⟨hd, hm⟩ := (rising_cons d m).1 h
    unfold Memory.insert
    split
    · refine (rising_cons _ _).2 ⟨?_, h⟩
      intro e he
      rcases List.mem_cons.1 he with rfl | he
      · assumption
      · exact lt_trans ‹_› (hd e he)
    · split
      · rename_i _ heq
        exact (rising_cons _ _).2 ⟨by simpa [heq, above] using hd, hm⟩
      · refine (rising_cons _ _).2 ⟨fun e he => ?_, ih hm⟩
        rcases mem_insert he with rfl | he
        · dsimp only; omega
        · exact hd e he

theorem filter_rising {m : Memory} (p : Host.Cell → Bool) (h : Memory.rising m = true) :
    Memory.rising (m.filter p) = true := by
  induction m with
  | nil => rfl
  | cons d m ih =>
    obtain ⟨hd, hm⟩ := (rising_cons d m).1 h
    by_cases hp : p d
    · simp only [List.filter_cons, hp, if_true]
      exact (rising_cons _ _).2 ⟨fun e he => hd e (List.mem_filter.1 he).1, ih hm⟩
    · simpa [List.filter_cons, hp] using ih hm

/-- A write to one of the 40 addresses keeps the canonical form. -/
theorem write_wf {m : Memory} {a : Nat} (v : Byte) (ha : ampListed a = true)
    (h : Memory.wf m = true) : Memory.wf (Memory.write m a v) = true := by
  simp only [Memory.wf, Bool.and_eq_true, List.all_eq_true, bne_iff_ne] at h ⊢
  unfold Memory.write
  split
  · exact ⟨filter_rising _ h.1, fun c hc => h.2 c (List.mem_filter.1 hc).1⟩
  · rename_i hp
    refine ⟨insert_rising a v h.1, fun c hc => ?_⟩
    rcases mem_insert hc with rfl | hc
    · exact ⟨ha, hp⟩
    · exact h.2 c hc

theorem read_above {m : Memory} {a : Nat} (h : above a m) : Memory.read m a = ampPowerUp a := by
  induction m with
  | nil => rfl
  | cons c m ih =>
    have hc := h c (by simp)
    have : c.1 ≠ a := by omega
    simp only [Memory.read, this, if_false]
    exact ih fun e he => h e (by simp [he])

/-- Two memories in the canonical form that hold the same registers are the same list. -/
theorem wf_ext {m n : Memory} (hm : Memory.wf m = true) (hn : Memory.wf n = true)
    (h : ∀ a, Memory.read m a = Memory.read n a) : m = n := by
  simp only [Memory.wf, Bool.and_eq_true, List.all_eq_true, bne_iff_ne] at hm hn
  obtain ⟨hm, pm⟩ := hm
  obtain ⟨hn, pn⟩ := hn
  induction m generalizing n with
  | nil =>
    cases n with
    | nil => rfl
    | cons d n =>
      have := h d.1
      simp only [Memory.read, if_true] at this
      exact absurd this (pn d (by simp)).2
  | cons c m ih =>
    obtain ⟨hc, hm'⟩ := (rising_cons c m).1 hm
    have rc : Memory.read (c :: m) c.1 = some c.2 := by simp [Memory.read]
    cases n with
    | nil =>
      have := (h c.1).symm.trans rc
      exact absurd this (pm c (by simp)).2
    | cons d n =>
      obtain ⟨hd, hn'⟩ := (rising_cons d n).1 hn
      have rd : Memory.read (d :: n) d.1 = some d.2 := by simp [Memory.read]
      have hcd : c.1 = d.1 := by
        rcases lt_trichotomy c.1 d.1 with hl | he | hl
        · refine absurd (((read_above (a := c.1) (m := d :: n) ?_).symm.trans (h c.1).symm).trans rc) (pm c (by simp)).2
          intro e he
          rcases List.mem_cons.1 he with rfl | he
          · exact hl
          · exact lt_trans hl (hd e he)
        · exact he
        · refine absurd (((read_above (a := d.1) (m := c :: m) ?_).symm.trans (h d.1)).trans rd) (pn d (by simp)).2
          intro e he
          rcases List.mem_cons.1 he with rfl | he
          · exact hl
          · exact lt_trans hl (hc e he)
      have hv : c.2 = d.2 := by
        have := (rc.symm.trans (h c.1)).trans (hcd ▸ rd)
        simpa using this
      have hcd' : c = d := Prod.ext hcd hv
      subst hcd'
      congr 1
      refine ih (fun a => ?_) hm' (fun e he => pm e (by simp [he])) hn' (fun e he => pn e (by simp [he]))
      by_cases hac : c.1 = a
      · rw [← hac, read_above hc, read_above hd]
      · simpa [Memory.read, hac] using h a

end Sys2Proof.Laws
end

