-- ==== Sys2Proof/Laws/State.lean ====
section
/-!
SUPPORT. What each named update of the state does to each field: one lemma per field per update, so that no
proof unfolds a record update.
-/

namespace Sys2Proof.Laws

open Sys2Proof.Machine

variable (s : State) (b b' : BoardId) (x : Board) (c : LedName) (v : LedState) (a : RegAddr) (w : Byte)
  (f : FaultRecord)

/-! ### `markRefused` -/

@[simp] theorem markRefused_board1 : (s.markRefused).board1 = s.board1 := rfl
@[simp] theorem markRefused_board2 : (s.markRefused).board2 = s.board2 := rfl
@[simp] theorem markRefused_i2sActive : (s.markRefused).i2sActive = s.i2sActive := rfl
@[simp] theorem markRefused_swNext : (s.markRefused).swNext = s.swNext := rfl
@[simp] theorem markRefused_txPending : (s.markRefused).txPending = s.txPending := rfl
@[simp] theorem markRefused_amp : (s.markRefused).amp = s.amp := rfl
@[simp] theorem markRefused_ampInitIdx : (s.markRefused).ampInitIdx = s.ampInitIdx := rfl
@[simp] theorem markRefused_i2cReady : (s.markRefused).i2cReady = s.i2cReady := rfl
@[simp] theorem markRefused_i2cQueue : (s.markRefused).i2cQueue = s.i2cQueue := rfl
@[simp] theorem markRefused_frameNo : (s.markRefused).frameNo = s.frameNo := rfl
@[simp] theorem markRefused_history : (s.markRefused).history = s.history := rfl
@[simp] theorem markRefused_rx : (s.markRefused).rx = s.rx := rfl
@[simp] theorem markRefused_run : (s.markRefused).run = s.run := rfl
@[simp] theorem markRefused_faults : (s.markRefused).faults = s.faults := rfl
@[simp] theorem markRefused_refused : (s.markRefused).refused = true := rfl

/-! ### `markFault` -/

@[simp] theorem markFault_board1 : (s.markFault f).board1 = s.board1 := rfl
@[simp] theorem markFault_board2 : (s.markFault f).board2 = s.board2 := rfl
@[simp] theorem markFault_i2sActive : (s.markFault f).i2sActive = s.i2sActive := rfl
@[simp] theorem markFault_swNext : (s.markFault f).swNext = s.swNext := rfl
@[simp] theorem markFault_txPending : (s.markFault f).txPending = s.txPending := rfl
@[simp] theorem markFault_amp : (s.markFault f).amp = s.amp := rfl
@[simp] theorem markFault_ampInitIdx : (s.markFault f).ampInitIdx = s.ampInitIdx := rfl
@[simp] theorem markFault_i2cReady : (s.markFault f).i2cReady = s.i2cReady := rfl
@[simp] theorem markFault_i2cQueue : (s.markFault f).i2cQueue = s.i2cQueue := rfl
@[simp] theorem markFault_frameNo : (s.markFault f).frameNo = s.frameNo := rfl
@[simp] theorem markFault_history : (s.markFault f).history = s.history := rfl
@[simp] theorem markFault_rx : (s.markFault f).rx = s.rx := rfl
@[simp] theorem markFault_run : (s.markFault f).run = s.run := rfl
@[simp] theorem markFault_faults : (s.markFault f).faults = s.faults ++ [f] := rfl
@[simp] theorem markFault_refused : (s.markFault f).refused = s.refused := rfl

/-! ### `drawn` -/

@[simp] theorem drawn_board1 : (s.drawn).board1 = s.board1 := rfl
@[simp] theorem drawn_board2 : (s.drawn).board2 = s.board2 := rfl
@[simp] theorem drawn_i2sActive : (s.drawn).i2sActive = s.i2sActive := rfl
@[simp] theorem drawn_swNext : (s.drawn).swNext = s.swNext := rfl
@[simp] theorem drawn_txPending : (s.drawn).txPending = s.txPending := rfl
@[simp] theorem drawn_amp : (s.drawn).amp = s.amp := rfl
@[simp] theorem drawn_ampInitIdx : (s.drawn).ampInitIdx = s.ampInitIdx := rfl
@[simp] theorem drawn_i2cReady : (s.drawn).i2cReady = s.i2cReady := rfl
@[simp] theorem drawn_i2cQueue : (s.drawn).i2cQueue = s.i2cQueue := rfl
@[simp] theorem drawn_frameNo : (s.drawn).frameNo = s.frameNo := rfl
@[simp] theorem drawn_history : (s.drawn).history = s.history := rfl
@[simp] theorem drawn_rx : (s.drawn).rx = s.rx := rfl
@[simp] theorem drawn_run : (s.drawn).run = { s.run with draws := s.run.draws + 1 } := rfl
@[simp] theorem drawn_faults : (s.drawn).faults = s.faults := rfl
@[simp] theorem drawn_refused : (s.drawn).refused = s.refused := rfl

/-! ### `ampStored` -/

@[simp] theorem ampStored_board1 : (s.ampStored a w).board1 = s.board1 := rfl
@[simp] theorem ampStored_board2 : (s.ampStored a w).board2 = s.board2 := rfl
@[simp] theorem ampStored_i2sActive : (s.ampStored a w).i2sActive = s.i2sActive := rfl
@[simp] theorem ampStored_swNext : (s.ampStored a w).swNext = s.swNext := rfl
@[simp] theorem ampStored_txPending : (s.ampStored a w).txPending = s.txPending := rfl
@[simp] theorem ampStored_amp : (s.ampStored a w).amp = Memory.write s.amp a.toNat w := rfl
@[simp] theorem ampStored_ampInitIdx : (s.ampStored a w).ampInitIdx = min Config.ampRegs (s.ampInitIdx + 1) := rfl
@[simp] theorem ampStored_i2cReady : (s.ampStored a w).i2cReady = s.i2cReady := rfl
@[simp] theorem ampStored_i2cQueue : (s.ampStored a w).i2cQueue = s.i2cQueue := rfl
@[simp] theorem ampStored_frameNo : (s.ampStored a w).frameNo = s.frameNo := rfl
@[simp] theorem ampStored_history : (s.ampStored a w).history = s.history := rfl
@[simp] theorem ampStored_rx : (s.ampStored a w).rx = s.rx := rfl
@[simp] theorem ampStored_run : (s.ampStored a w).run = s.run := rfl
@[simp] theorem ampStored_faults : (s.ampStored a w).faults = s.faults := rfl
@[simp] theorem ampStored_refused : (s.ampStored a w).refused = s.refused := rfl

/-! ### `setBoard` -/

@[simp] theorem setBoard_i2sActive : (s.setBoard b x).i2sActive = s.i2sActive := by cases b <;> rfl
@[simp] theorem setBoard_swNext : (s.setBoard b x).swNext = s.swNext := by cases b <;> rfl
@[simp] theorem setBoard_txPending : (s.setBoard b x).txPending = s.txPending := by cases b <;> rfl
@[simp] theorem setBoard_amp : (s.setBoard b x).amp = s.amp := by cases b <;> rfl
@[simp] theorem setBoard_ampInitIdx : (s.setBoard b x).ampInitIdx = s.ampInitIdx := by cases b <;> rfl
@[simp] theorem setBoard_i2cReady : (s.setBoard b x).i2cReady = s.i2cReady := by cases b <;> rfl
@[simp] theorem setBoard_i2cQueue : (s.setBoard b x).i2cQueue = s.i2cQueue := by cases b <;> rfl
@[simp] theorem setBoard_frameNo : (s.setBoard b x).frameNo = s.frameNo := by cases b <;> rfl
@[simp] theorem setBoard_history : (s.setBoard b x).history = s.history := by cases b <;> rfl
@[simp] theorem setBoard_rx : (s.setBoard b x).rx = s.rx := by cases b <;> rfl
@[simp] theorem setBoard_run : (s.setBoard b x).run = s.run := by cases b <;> rfl
@[simp] theorem setBoard_faults : (s.setBoard b x).faults = s.faults := by cases b <;> rfl
@[simp] theorem setBoard_refused : (s.setBoard b x).refused = s.refused := by cases b <;> rfl

/-! ### `setLed` -/

@[simp] theorem setLed_i2sActive : (s.setLed b c v).i2sActive = s.i2sActive := by cases b <;> rfl
@[simp] theorem setLed_swNext : (s.setLed b c v).swNext = s.swNext := by cases b <;> rfl
@[simp] theorem setLed_txPending : (s.setLed b c v).txPending = s.txPending := by cases b <;> rfl
@[simp] theorem setLed_amp : (s.setLed b c v).amp = s.amp := by cases b <;> rfl
@[simp] theorem setLed_ampInitIdx : (s.setLed b c v).ampInitIdx = s.ampInitIdx := by cases b <;> rfl
@[simp] theorem setLed_i2cReady : (s.setLed b c v).i2cReady = s.i2cReady := by cases b <;> rfl
@[simp] theorem setLed_i2cQueue : (s.setLed b c v).i2cQueue = s.i2cQueue := by cases b <;> rfl
@[simp] theorem setLed_frameNo : (s.setLed b c v).frameNo = s.frameNo := by cases b <;> rfl
@[simp] theorem setLed_history : (s.setLed b c v).history = s.history := by cases b <;> rfl
@[simp] theorem setLed_rx : (s.setLed b c v).rx = s.rx := by cases b <;> rfl
@[simp] theorem setLed_run : (s.setLed b c v).run = s.run := by cases b <;> rfl
@[simp] theorem setLed_faults : (s.setLed b c v).faults = s.faults := by cases b <;> rfl
@[simp] theorem setLed_refused : (s.setLed b c v).refused = s.refused := by cases b <;> rfl

/-! ### Boards -/

@[simp] theorem setBoard_board_self : (s.setBoard b x).board b = x := by cases b <;> rfl

theorem setBoard_board_other (h : b' ≠ b) : (s.setBoard b x).board b' = s.board b' := by
  cases b <;> cases b' <;> first | rfl | exact absurd rfl h

@[simp] theorem setLed_board_self : (s.setLed b c v).board b = (s.board b).setLed c v := by
  cases b <;> rfl

theorem setLed_board_other (h : b' ≠ b) : (s.setLed b c v).board b' = s.board b' :=
  setBoard_board_other s b b' _ h

@[simp] theorem boardSetLed_role : (x.setLed c v).role = x.role := by cases c <;> rfl
@[simp] theorem boardSetLed_p06 : (x.setLed c v).p06 = x.p06 := by cases c <;> rfl
@[simp] theorem boardSetLed_jp41 : (x.setLed c v).jp41 = x.jp41 := by cases c <;> rfl
@[simp] theorem boardSetLed_p05 : (x.setLed c v).p05 = x.p05 := by cases c <;> rfl
@[simp] theorem boardSetLed_led_self : (x.setLed c v).led c = some v := by cases c <;> rfl

theorem boardSetLed_led_other (c' : LedName) (h : c' ≠ c) : (x.setLed c v).led c' = x.led c' := by
  cases c <;> cases c' <;> first | rfl | exact absurd rfl h

/-- An LED write leaves every board's role alone. -/
@[simp] theorem setLed_role : (s.setLed b c v).role b' = s.role b' := by
  cases b <;> cases b' <;> cases c <;> rfl

/-- An LED write leaves every board's P0_6 alone. -/
@[simp] theorem setLed_p06 : ((s.setLed b c v).board b').p06 = (s.board b').p06 := by
  cases b <;> cases b' <;> cases c <;> rfl

/-- An LED write reaches that LED of that board and no other. -/
theorem setLed_led (c' : LedName) :
    (s.setLed b c v).led b' c' = if b' = b ∧ c' = c then some v else s.led b' c' := by
  cases b <;> cases b' <;> cases c <;> cases c' <;> rfl

/-- The diagnostic output leaves every role alone. -/
@[simp] theorem drawP05_role : (drawP05 b s).role b' = s.role b' := by
  cases b <;> cases b' <;> rfl

/-- The diagnostic output leaves every LED alone. -/
@[simp] theorem drawP05_led : (drawP05 b s).led b' c = s.led b' c := by
  cases b <;> cases b' <;> cases c <;> rfl

/-- An LED write leaves the jumpers alone. -/
@[simp] theorem setLed_jumpersRouted : (s.setLed b c v).jumpersRouted = s.jumpersRouted := by
  cases b <;> cases c <;> rfl

/-- The diagnostic output leaves the jumpers alone. -/
@[simp] theorem drawP05_jumpersRouted : (drawP05 b s).jumpersRouted = s.jumpersRouted := by
  cases b <;> rfl

/-- The diagnostic output leaves every P0_6 alone. -/
@[simp] theorem drawP05_p06 : ((drawP05 b s).board b').p06 = (s.board b').p06 := by
  cases b <;> cases b' <;> rfl

/-! ### Roles decide which boards are master and slave -/

theorem anyBooted_eq_false {s : State} : s.anyBooted = false ↔ ∀ b, s.role b = none := by
  simp only [State.anyBooted, Bool.or_eq_false_iff, Option.isSome_eq_false_iff, Option.isNone_iff_eq_none]
  exact ⟨fun h b => by cases b <;> simp [h], fun h => ⟨h _, h _⟩⟩

theorem boardsWith_congr {s t : State} (h : ∀ b, t.role b = s.role b) (r : Role) :
    t.boardsWith r = s.boardsWith r := by
  simp [State.boardsWith, h]

theorem masterBoard_congr {s t : State} (h : ∀ b, t.role b = s.role b) :
    t.masterBoard = s.masterBoard := by
  simp [State.masterBoard, boardsWith_congr h]

theorem slaveBoard_congr {s t : State} (h : ∀ b, t.role b = s.role b) :
    t.slaveBoard = s.slaveBoard := by
  simp [State.slaveBoard, boardsWith_congr h]

theorem masterBoard_eq_some {s : State} {b : BoardId} (h : s.masterBoard = some b) :
    s.role b = some .master := by
  unfold State.masterBoard State.boardsWith at h
  have := List.mem_of_mem_head? (by rw [h]; rfl : b ∈ List.head? _)
  simpa using (List.mem_filter.1 this).2

theorem masterBoard_eq_none {s : State} : s.masterBoard = none ↔ ∀ b, s.role b ≠ some .master := by
  simp only [State.masterBoard, State.boardsWith, List.head?_eq_none_iff, List.filter_eq_nil_iff]
  constructor
  · intro h b; cases b <;> simpa using h _ (by simp)
  · intro h b _; simpa using h b

end Sys2Proof.Laws
end

