-- ==== Sys2Proof/Laws/Ops.lean ====
section
/-!
SUPPORT. What each shared operation and each event can do, said once: if it answers a next state, then which,
and where it does. Later proofs cite these lemmas and do not unfold the operations.
-/

namespace Sys2Proof.Laws

open Sys2Proof Sys2Proof.Machine

variable {s t : State} {b : BoardId} {a : RegAddr} {v : Byte}

/-! ### The register write (R165) -/

theorem masterBoard_isSome_iff : s.masterBoard.isSome = true ↔ ∃ b, s.role b = some .master := by
  constructor
  · intro h
    obtain ⟨b, hb⟩ := Option.isSome_iff_exists.1 h
    exact ⟨b, masterBoard_eq_some hb⟩
  · rintro ⟨b, hb⟩
    by_contra h
    exact masterBoard_eq_none.1 (by simpa using h) b hb

theorem ampWrite_ready (hm : s.masterBoard.isSome = true) (hi : s.i2cReady = true)
    (ha : ampListed a.toNat = true) : ampWrite a v s = .next (s.ampStored a v) := by
  simp [ampWrite, hi, ha, Option.isNone_eq_false_iff.2 hm]

theorem ampWrite_unlisted (hm : s.masterBoard.isSome = true) (hi : s.i2cReady = true)
    (ha : ampListed a.toNat = false) :
    ampWrite a v s = .refused (.unlistedAmpRegister a s.markRefused) := by
  simp [ampWrite, refuse, hi, ha, Option.isNone_eq_false_iff.2 hm]

/-- A register write that answers a next state wrote a listed register. -/
theorem ampWrite_next (h : ampWrite a v s = .next t) :
    ampListed a.toNat = true ∧ t = s.ampStored a v := by
  unfold ampWrite notEnabled refuse at h
  repeat' split at h
  all_goals try contradiction
  simp only [Host.Outcome.next.injEq] at h
  exact ⟨‹_›, h.symm⟩

/-- The meaning of a row's instruction is the register write of the row. -/
theorem exec_of_row : ∀ p ∈ ampTable.zip ampInstrs, ∀ s,
    exec p.2 s = ampWrite p.1.addr p.1.value s := by
  intro p hp s
  simp only [ampTable, ampTable1, ampTable2, ampTable3, ampTable4, ampInstrs, List.cons_append,
    List.nil_append, List.zip_cons_cons, List.zip_nil_left, List.mem_cons, List.not_mem_nil,
    or_false] at hp
  rcases hp with rfl | rfl | rfl | rfl | rfl | rfl | rfl | rfl | rfl | rfl | rfl | rfl | rfl | rfl |
    rfl | rfl | rfl | rfl | rfl | rfl | rfl | rfl | rfl | rfl | rfl | rfl | rfl | rfl | rfl | rfl |
    rfl | rfl | rfl | rfl | rfl | rfl | rfl | rfl | rfl | rfl
  all_goals rfl

/-- Every address of the table is listed. -/
theorem listed_of_row : ∀ r ∈ ampTable, ampListed r.addr.toNat = true := by decide +kernel

/-- The addresses of the table are distinct. -/
theorem ampTable_nodup : (ampTable.map fun r => r.addr.toNat).Nodup := by decide +kernel

theorem findRow_some {n : Nat} {l : List AmpRow} {r : AmpRow} (h : findRow n l = some r) :
    r ∈ l ∧ r.addr.toNat = n := by
  induction l with
  | nil => simp [findRow] at h
  | cons q l ih =>
    unfold findRow at h
    split at h
    · simp only [Option.some.injEq] at h
      subst h
      exact ⟨by simp, ‹_›⟩
    · exact ⟨by simp [(ih h).1], (ih h).2⟩

/-- An address is listed exactly where some row has it. -/
theorem ampListed_iff : ampListed a.toNat = true ↔ ∃ r ∈ ampTable, r.addr = a := by
  constructor
  · intro h
    obtain ⟨r, hr⟩ := Option.isSome_iff_exists.1 h
    obtain ⟨hm, ha⟩ := findRow_some hr
    exact ⟨r, hm, BitVec.eq_of_toNat_eq ha⟩
  · rintro ⟨r, hm, rfl⟩
    exact listed_of_row r hm

/-- A register write at the I2C port is the operation of R165 with the word's address and value, whether
or not the word is a row of the table. -/
theorem runAmpWord_eq (w : AmpWord) (s : State) :
    runAmpWord w s = ampWrite (ampAddr w) (ampValue w) s := by
  unfold runAmpWord
  split
  · rename_i i h
    obtain ⟨r, hr, rfl⟩ := decodeAmpw_ok h
    simp only [exec_of_row _ hr, AmpRow.word, ampAddr_append, ampValue_append]
  · rfl

/-! ### The packet (R148 to R151) -/

/-- What the meaning of a packet can do: nothing, or an LED_RX of the master. -/
theorem setMasterLed_next {x : LedState} (h : setMasterLed x s = .next t) :
    ∃ b, s.masterBoard = some b ∧ t = s.setLed b .ledRx x := by
  unfold setMasterLed notEnabled at h
  split at h
  · simp only [Host.Outcome.next.injEq] at h
    exact ⟨_, ‹_›, h.symm⟩
  · simp at h

theorem dataBytes_inj {d e : PktData} (h : dataBytes d = dataBytes e) : d = e := by
  simp only [dataBytes, dataByte, List.cons.injEq, and_true] at h
  ext i hi
  have key : ∀ j, i / 8 = j → d.extractLsb' (8 * j) 8 = e.extractLsb' (8 * j) 8 → d[i] = e[i] := by
    intro j hj hd
    have := congrArg (fun x : Byte => x.getLsbD (i % 8)) hd
    simp only [BitVec.getLsbD_extractLsb', show i % 8 < 8 by omega, decide_true, Bool.true_and,
      show 8 * j + i % 8 = i by omega] at this
    simpa only [BitVec.getLsbD_eq_getElem hi] using this
  obtain ⟨h0, h1, h2, h3, h4⟩ := h
  have : i / 8 = 0 ∨ i / 8 = 1 ∨ i / 8 = 2 ∨ i / 8 = 3 ∨ i / 8 = 4 := by omega
  rcases this with hj | hj | hj | hj | hj
  · exact key 0 hj h0
  · exact key 1 hj h1
  · exact key 2 hj h2
  · exact key 3 hj h3
  · exact key 4 hj h4

/-- `GpioAction` by its five data bytes (R150). -/
theorem gpioAction_eq (length : Byte) (data : PktData) (s : State) :
    gpioAction length data s =
      if length = 0x01#8 ∧ dataBytes data = [0xFF#8, 0x00#8, 0x00#8, 0x00#8, 0x00#8] then
        setMasterLed .on s
      else if length = 0x01#8 ∧ dataBytes data = [0x00#8, 0x00#8, 0x00#8, 0x00#8, 0x00#8] then
        setMasterLed .off s
      else refuse .unspecifiedGpioPayload s := by
  unfold gpioAction
  simp only [dataBytes, List.drop_succ_cons, List.drop_zero, List.cons.injEq, and_true]
  by_cases hl : length = 0x01#8 <;>
    by_cases ht : dataByte data 1 = 0#8 ∧ dataByte data 2 = 0#8 ∧ dataByte data 3 = 0#8 ∧
      dataByte data 4 = 0#8 <;> simp [hl, ht]

/-- The data of the packet of R147 that sets the LED on, and of the other. -/
theorem dataBytes_on {d : PktData} :
    dataBytes d = [0xFF#8, 0x00#8, 0x00#8, 0x00#8, 0x00#8] ↔ d = 0x00000000FF#40 :=
  ⟨fun h => dataBytes_inj (h.trans (by decide)), fun h => h ▸ by decide⟩

theorem dataBytes_off {d : PktData} :
    dataBytes d = [0x00#8, 0x00#8, 0x00#8, 0x00#8, 0x00#8] ↔ d = 0x0000000000#40 :=
  ⟨fun h => dataBytes_inj (h.trans (by decide)), fun h => h ▸ by decide⟩

/-- The default CRC of a word as the fold of R145, which does not read the CRC's own byte. -/
theorem crc8Default_unpack (w : PktWord) : crc8Default (unpack w) =
    [wordByte w 0, wordByte w 1, wordByte w 2, wordByte w 3, wordByte w 4, wordByte w 5,
      wordByte w 6, 0x00#8].foldl crcByte 0x00#8 := rfl

/-- The class of a word, with the machine's own CRC check (R78). -/
theorem pktClass_eq (w : PktWord) : pktClass w =
    if pktStart w ≠ Config.startNibble then .notAPacket
    else if !crcOk w then .corrupted
    else if pktSource w ≠ Config.srcGpio then .unimplementedSource (pktSource w)
    else if pktLength w = 0x01#8 ∧ pktData w = 0x00000000FF#40 then .ledOn
    else if pktLength w = 0x01#8 ∧ pktData w = 0x0000000000#40 then .ledOff
    else .unspecifiedPayload := rfl

/-- A word is valid where it starts with the start nibble and its CRC is right (R148). -/
theorem valid_iff {w : PktWord} :
    valid w = true ↔ pktStart w = Config.startNibble ∧ crcOk w = true := by
  simp [valid, validWith, crcOk]

/-- A received word is treated as its class says (R78). -/
theorem runPacket_eq (w : PktWord) (s : State) :
    runPacket w s =
      match pktClass w with
      | .notAPacket => .next s
      | .corrupted => .next s
      | .unimplementedSource n => refuse (.unimplementedSource n) s
      | .ledOn => setMasterLed .on s
      | .ledOff => setMasterLed .off s
      | .unspecifiedPayload => refuse .unspecifiedGpioPayload s := by
  rw [pktClass_eq]
  unfold runPacket
  by_cases h0 : pktStart w = Config.startNibble
  · by_cases h1 : pktSource w = Config.srcGpio
    · have hd : decodePkt w = .ok (.pktSrcGpio (pktLength w) (pktData w) (pktCrc w)) :=
        decodePkt_ok.2 ⟨h0, h1, rfl⟩
      have hw : pktWord Config.srcGpio (pktLength w) (pktData w) (pktCrc w) = w := by
        rw [← h1]; exact pktWord_of_fields w h0
      simp only [hd, exec, execPktSrcGpio, hw, gpioAction_eq, dataBytes_on, dataBytes_off]
      by_cases hc : crcOk w = true
      · simp only [hc, h0, h1]
        simp only [if_true, Bool.not_true, Bool.false_eq_true, if_false, ne_eq, not_true_eq_false]
        split_ifs <;> rfl
      · simp [hc, h0]
    · have hd : decodePkt w = .error (.otherSource (pktSource w)) := by simp [decodePkt, h0, h1]
      simp only [hd, packetOther, h0]
      by_cases hc : crcOk w = true <;> simp [hc, h1]
  · have hd : decodePkt w = .error .notAPacket := by simp [decodePkt, h0]
    simp [hd, packetOther, h0]

/-- What the reception of a word can do: nothing, or an LED_RX of the master, for a word of the two
defined classes. -/
theorem runPacket_next {w : PktWord} (h : runPacket w s = .next t) :
    t = s ∨ ∃ b x, s.masterBoard = some b ∧ t = s.setLed b .ledRx x ∧
      ((x = .on ∧ pktClass w = .ledOn) ∨ (x = .off ∧ pktClass w = .ledOff)) := by
  rw [runPacket_eq] at h
  split at h
  · simp only [Host.Outcome.next.injEq] at h; exact .inl h.symm
  · simp only [Host.Outcome.next.injEq] at h; exact .inl h.symm
  · simp [refuse] at h
  · obtain ⟨b, hb, ht⟩ := setMasterLed_next h
    exact .inr ⟨b, .on, hb, ht, .inl ⟨rfl, ‹_›⟩⟩
  · obtain ⟨b, hb, ht⟩ := setMasterLed_next h
    exact .inr ⟨b, .off, hb, ht, .inr ⟨rfl, ‹_›⟩⟩
  · simp [refuse] at h

/-! ### The frame (R100) -/

/-- The configuration check is what it says: every row's register holds the row's value (R170). -/
theorem ampIsTable_iff : s.ampIsTable = true ↔
    ∀ r ∈ ampTable, Memory.read s.amp r.addr.toNat = some r.value := by
  simp [State.ampIsTable]

/-- Where a frame answers a next state it was enabled and free of contention, and this is what it did. -/
theorem frameStep_next {note : Option Bool} (h : frameStep note s = .next t) :
    s.i2sActive = true ∧ s.masterBoard.isSome = true ∧ s.jumpersRouted = true ∧
    (∀ r ∈ ampTable, Memory.read s.amp r.addr.toNat = some r.value) ∧
    contention (allDrives note s) = none ∧ t = placed note s := by
  unfold frameStep notEnabled at h
  repeat' split at h
  all_goals first | contradiction | skip
  simp only [Host.Outcome.next.injEq] at h
  exact ⟨by simp_all, by simp_all [Option.isSome_iff_ne_none], by simp_all,
    ampIsTable_iff.1 (by simp_all), ‹_›, h.symm⟩

/-- An enabled frame free of contention answers the placed state. -/
theorem frameStep_ready {note : Option Bool} (ha : s.i2sActive = true)
    (hm : s.masterBoard.isSome = true) (hj : s.jumpersRouted = true)
    (ht : ∀ r ∈ ampTable, Memory.read s.amp r.addr.toNat = some r.value)
    (hc : contention (allDrives note s) = none) : frameStep note s = .next (placed note s) := by
  simp [frameStep, ha, Option.isNone_eq_false_iff.2 hm, hj, ampIsTable_iff.2 ht, hc]

/-! ### The user's events -/

theorem boot_next (h : boot b s = .next t) :
    s.role b = none ∧ ∃ l, (s.board b).p06 = some l ∧ s.role (otherBoard b) ≠ some (roleOf l) ∧
      ((l = .low ∧ t = bootSlave b s) ∨ (l = .high ∧ t = bootMaster b s)) := by
  unfold boot notEnabled refuse at h
  repeat' split at h
  all_goals try contradiction
  all_goals
    rename_i hr _ l hl hc _ hq
    simp only [Host.Outcome.next.injEq] at h
    refine ⟨by simpa using hr, l, hl, hc, ?_⟩
    cases l
  all_goals simp_all [roleOf]

theorem pressMaster_next (h : pressMaster b s = .next t) :
    s.ampInitIdx = 40 ∧ s.i2sActive = false ∧ s.jumpersRouted = true ∧
      t = { s.setLed b .green .on with i2sActive := true, frameNo := 0 } := by
  unfold pressMaster notEnabled refuse at h
  repeat' split at h
  all_goals try contradiction
  simp only [Host.Outcome.next.injEq] at h
  exact ⟨by simp_all [Config.ampRegs], by simp_all, by simp_all, h.symm⟩

theorem pressSlave_next (h : pressSlave s = .next t) :
    s.i2sActive = true ∧ s.txPending = none ∧
      t = { s with txPending := some ⟨slavePacket s, Config.pktFrames⟩, swNext := s.swNext ^^^ 0xFF#8 } := by
  unfold pressSlave refuse at h
  repeat' split at h
  all_goals try contradiction
  simp only [Host.Outcome.next.injEq] at h
  exact ⟨by simp_all, by simp_all, h.symm⟩

theorem pressSw2_next (h : pressSw2 b s = .next t) :
    (s.role b = some .master ∧ pressMaster b (drawP05 b s) = .next t) ∨
    (s.role b = some .slave ∧ pressSlave (drawP05 b s) = .next t) := by
  unfold pressSw2 notEnabled at h
  split at h
  · exact .inl ⟨‹_›, h⟩
  · exact .inr ⟨‹_›, h⟩
  · simp at h

theorem setP06_next {l : Level} (h : setP06 b l s = .next t) :
    (∀ c, s.role c = none) ∧ t = s.setBoard b { s.board b with p06 := some l } := by
  unfold setP06 refuse notEnabled at h
  repeat' split at h
  all_goals try contradiction
  simp only [Host.Outcome.next.injEq] at h
  exact ⟨anyBooted_eq_false.1 (by simp_all), h.symm⟩

theorem setJp41_next {p : Jumper} (h : setJp41 b p s = .next t) :
    (∀ c, s.role c = none) ∧ t = s.setBoard b { s.board b with jp41 := p } := by
  unfold setJp41 notEnabled at h
  split at h
  · simp at h
  · simp only [Host.Outcome.next.injEq] at h
    exact ⟨anyBooted_eq_false.1 (by simp_all), h.symm⟩

/-! ### The step -/

/-- The ways a step answers a next state (R14, R194). -/
inductive StepCase (s t : State) : Prop where
  /-- The master's reaction to the received pair, and the end of the frame. -/
  | reaction (w : PktWord) (u : State) (hw : s.rx = some w)
      (hu : runPacket w { s with rx := none } = .next u) (ht : t = { u with frameNo := u.frameNo + 1 })
  /-- The next register write of the I2C port. -/
  | write (w : AmpWord) (ws : List AmpWord) (hr : s.rx = none) (hq : s.i2cQueue = w :: ws)
      (hl : ampListed (ampAddr w).toNat = true)
      (ht : t = State.ampStored { s with i2cQueue := ws } (ampAddr w) (ampValue w))
  /-- The next event of the schedule. -/
  | event (e : Event) (es : List Event) (hr : s.rx = none) (hq : s.i2cQueue = [])
      (hs : s.run.schedule = e :: es) (ht : eventStep e { s with run.schedule := es } = .next t)
  /-- A frame of its own accord. -/
  | frame (hr : s.rx = none) (hq : s.i2cQueue = []) (hs : s.run.schedule = [])
      (ht : frameStep none s = .next t)
  /-- Nothing: the bus is inactive and no event is to come. -/
  | idle (hr : s.rx = none) (hq : s.i2cQueue = []) (hs : s.run.schedule = [])
      (ha : s.i2sActive = false) (ht : t = s)

theorem andThen_endFrame {o : Result} (h : andThen o endFrame = .next t) :
    ∃ u, o = .next u ∧ t = { u with frameNo := u.frameNo + 1 } := by
  cases o with
  | next u => exact ⟨u, rfl, by simpa [andThen, endFrame, eq_comm] using h⟩
  | fault r => simp [andThen] at h
  | refused r => simp [andThen] at h

/-- A step of an unmarked state. -/
theorem step_unmarked (hf : s.faults = []) (hr : s.refused = false) : step s = stepUnmarked s := by
  simp [step, hf, hr]

/-- A step that answers a next state started unmarked and is one of five cases. -/
theorem step_cases (h : step s = .next t) : s.faults = [] ∧ s.refused = false ∧ StepCase s t := by
  unfold step at h
  split at h
  · simp at h
  · split at h
    · simp at h
    · refine ⟨by simp_all, by simp_all, ?_⟩
      unfold stepUnmarked at h
      split at h
      · obtain ⟨u, hu, ht⟩ := andThen_endFrame h
        exact .reaction _ u ‹_› hu ht
      · split at h
        · rw [runAmpWord_eq] at h
          obtain ⟨hl, ht⟩ := ampWrite_next h
          exact .write _ _ ‹_› ‹_› hl ht
        · split at h
          · exact .event _ _ ‹_› ‹_› ‹_› h
          · unfold idleStep at h
            split at h
            · exact .frame ‹_› ‹_› ‹_› h
            · simp only [Host.Outcome.next.injEq] at h
              exact .idle ‹_› ‹_› ‹_› (by simp_all) h.symm

end Sys2Proof.Laws
end

