-- ==== Sys2Proof/Laws/PerInstr.lean ====
section
/-!
SUPPORT. One statement about every encoded unit, per constructor: its encoding has the bits its row of
spec/opcode_table.json fixes (30_encoding.md R77).
-/

namespace Sys2Proof.Laws.Units

open Sys2Proof Sys2Proof.Machine

/-- The encoding of a unit meets its row's match and mask: the low byte 0x0D of a packet word (R77), the
whole 24-bit constant of a register write, which is the word of a row of the table (R73, R77). -/
def Statement (i : Instr) : Prop :=
  match encode i with
  | .pkt64 w => w.extractLsb' 0 8 = 0x0D#8
  | .ampw24 w => w ∈ ampWords

/-- The low byte of an assembled packet word is its source and the start nibble. -/
theorem low_byte (s : Nibble) (l : Byte) (d : PktData) (c : Byte) :
    (pktWord s l d c).extractLsb' 0 8 = s ++ Config.startNibble := by
  ext i hi
  rw [BitVec.getElem_extractLsb', pktWord_bit, ← BitVec.getLsbD_eq_getElem, BitVec.getLsbD_append]
  simp only [Nat.zero_add, hi, if_true]

theorem pktSrcGpio (length : Byte) (data : PktData) (crc : Byte) :
    Statement (.pktSrcGpio length data crc) := by
  simp only [Statement, encode, low_byte]
  decide

theorem ampwThermalWrn : Statement .ampwThermalWrn := by simp only [Statement, encode]; decide

theorem ampwSpkMonThresh : Statement .ampwSpkMonThresh := by simp only [Statement, encode]; decide

theorem ampwSpkMonLoad : Statement .ampwSpkMonLoad := by simp only [Statement, encode]; decide

theorem ampwSpkMonDur : Statement .ampwSpkMonDur := by simp only [Statement, encode]; decide

theorem ampwErrorMonCtl : Statement .ampwErrorMonCtl := by simp only [Statement, encode]; decide

theorem ampwPcmModeCfg : Statement .ampwPcmModeCfg := by simp only [Statement, encode]; decide

theorem ampwPcmClkSetup : Statement .ampwPcmClkSetup := by simp only [Statement, encode]; decide

theorem ampwPcmSampleRate : Statement .ampwPcmSampleRate := by simp only [Statement, encode]; decide

theorem ampwPcmTxCtl1 : Statement .ampwPcmTxCtl1 := by simp only [Statement, encode]; decide

theorem ampwPcmTxCtl2 : Statement .ampwPcmTxCtl2 := by simp only [Statement, encode]; decide

theorem ampwPcmHizCtl1 : Statement .ampwPcmHizCtl1 := by simp only [Statement, encode]; decide

theorem ampwPcmHizCtl2 : Statement .ampwPcmHizCtl2 := by simp only [Statement, encode]; decide

theorem ampwPcmHizCtl3 : Statement .ampwPcmHizCtl3 := by simp only [Statement, encode]; decide

theorem ampwPcmHizCtl4 : Statement .ampwPcmHizCtl4 := by simp only [Statement, encode]; decide

theorem ampwPcmHizCtl5 : Statement .ampwPcmHizCtl5 := by simp only [Statement, encode]; decide

theorem ampwPcmHizCtl6 : Statement .ampwPcmHizCtl6 := by simp only [Statement, encode]; decide

theorem ampwPcmHizCtl7 : Statement .ampwPcmHizCtl7 := by simp only [Statement, encode]; decide

theorem ampwPcmHizCtl8 : Statement .ampwPcmHizCtl8 := by simp only [Statement, encode]; decide

theorem ampwPcmRxSrc1 : Statement .ampwPcmRxSrc1 := by simp only [Statement, encode]; decide

theorem ampwPcmRxSrc2 : Statement .ampwPcmRxSrc2 := by simp only [Statement, encode]; decide

theorem ampwPcmTxDrvStr : Statement .ampwPcmTxDrvStr := by simp only [Statement, encode]; decide

theorem ampwPcmTxSrcEn : Statement .ampwPcmTxSrcEn := by simp only [Statement, encode]; decide

theorem ampwPcmRxEn : Statement .ampwPcmRxEn := by simp only [Statement, encode]; decide

theorem ampwPcmTxEn : Statement .ampwPcmTxEn := by simp only [Statement, encode]; decide

theorem ampwSpkVolCtl : Statement .ampwSpkVolCtl := by simp only [Statement, encode]; decide

theorem ampwSpkChCfg : Statement .ampwSpkChCfg := by simp only [Statement, encode]; decide

theorem ampwSpkAmpOutCfg : Statement .ampwSpkAmpOutCfg := by simp only [Statement, encode]; decide

theorem ampwSpkAmpSsmCfg : Statement .ampwSpkAmpSsmCfg := by simp only [Statement, encode]; decide

theorem ampwSpkAmpEdgeRateCtl : Statement .ampwSpkAmpEdgeRateCtl := by simp only [Statement, encode]; decide

theorem ampwSpkChPinkNoiseEn : Statement .ampwSpkChPinkNoiseEn := by simp only [Statement, encode]; decide

theorem ampwSpkChAmpEn : Statement .ampwSpkChAmpEn := by simp only [Statement, encode]; decide

theorem ampwIvDataDspCtl : Statement .ampwIvDataDspCtl := by simp only [Statement, encode]; decide

theorem ampwIvDataEn : Statement .ampwIvDataEn := by simp only [Statement, encode]; decide

theorem ampwBrwnoutProtAlcThresh : Statement .ampwBrwnoutProtAlcThresh := by simp only [Statement, encode]; decide

theorem ampwBrwnoutProtAlcRates : Statement .ampwBrwnoutProtAlcRates := by simp only [Statement, encode]; decide

theorem ampwBrwnoutProtAlcAttn : Statement .ampwBrwnoutProtAlcAttn := by simp only [Statement, encode]; decide

theorem ampwBrwnoutProtAlcRelease : Statement .ampwBrwnoutProtAlcRelease := by simp only [Statement, encode]; decide

theorem ampwBrwnout : Statement .ampwBrwnout := by simp only [Statement, encode]; decide

theorem ampwBrwnoutProtAlcInfHoldRelease : Statement .ampwBrwnoutProtAlcInfHoldRelease := by simp only [Statement, encode]; decide

theorem ampwBrwnoutProtAlcEn : Statement .ampwBrwnoutProtAlcEn := by simp only [Statement, encode]; decide

end Sys2Proof.Laws.Units
end

