-- ==== Sys2Proof/Laws/Step.lean ====
section
/-!
SUPPORT. Everything a step can do, with the event's effect written out, and the state a step leaves untouched:
the lemmas the statements about every step are proved from.
-/

namespace Sys2Proof.Laws

open Sys2Proof Sys2Proof.Machine

variable {s t : State} {b : BoardId}

/-- The effects of a step that answers a next state, one constructor each; `s` is the state the effect
applies to, with the word, the register write or the event already taken. -/
inductive Effect : State → State → Prop where
  /-- The received word is ignored and the frame ends (R143, R148, R100). -/
  | ignored (s : State) (w : PktWord) (hw : s.rx = some w) :
      Effect s { s with rx := none, frameNo := s.frameNo + 1 }
  /-- The received packet sets LED_RX of the master and the frame ends (R150, R100). -/
  | led (s : State) (w : PktWord) (b : BoardId) (x : LedState) (hw : s.rx = some w)
      (hb : s.masterBoard = some b)
      (hx : (x = .on ∧ pktClass w = .ledOn) ∨ (x = .off ∧ pktClass w = .ledOff)) :
      Effect s { (s.setLed b .ledRx x) with rx := none, frameNo := s.frameNo + 1 }
  /-- A register write (R165). -/
  | write (s : State) (w : AmpWord) (ws : List AmpWord) (hr : s.rx = none) (hq : s.i2cQueue = w :: ws)
      (hl : ampListed (ampAddr w).toNat = true) :
      Effect s (State.ampStored { s with i2cQueue := ws } (ampAddr w) (ampValue w))
  /-- The user sets P0_6 of a board before any board boots (R25, R212). -/
  | setP06 (s : State) (b : BoardId) (l : Level) (es : List Event) (hr : ∀ c, s.role c = none) :
      Effect s { (s.setBoard b { s.board b with p06 := some l }) with run.schedule := es }
  /-- The user sets JP41 of a board before any board boots (R36, R212). -/
  | setJp41 (s : State) (b : BoardId) (p : Jumper) (es : List Event) (hr : ∀ c, s.role c = none) :
      Effect s { (s.setBoard b { s.board b with jp41 := p }) with run.schedule := es }
  /-- A board boots as the slave (R120, R121). -/
  | bootSlave (s : State) (b : BoardId) (es : List Event) (hr : s.role b = none)
      (hp : (s.board b).p06 = some .low) (ho : s.role (otherBoard b) ≠ some .slave) :
      Effect s { (bootSlave b s) with run.schedule := es }
  /-- A board boots as the master (R120, R123). -/
  | bootMaster (s : State) (b : BoardId) (es : List Event) (hx : s.rx = none) (hq : s.i2cQueue = [])
      (hr : s.role b = none)
      (hp : (s.board b).p06 = some .high) (ho : s.role (otherBoard b) ≠ some .master) :
      Effect s { (bootMaster b s) with run.schedule := es }
  /-- Switch 2 on the master starts the bus (R124). -/
  | pressMaster (s : State) (b : BoardId) (es : List Event) (hx : s.rx = none)
      (hr : s.role b = some .master)
      (hi : s.ampInitIdx = 40) (ha : s.i2sActive = false) (hj : s.jumpersRouted = true) :
      Effect s { ((drawP05 b s).setLed b .green .on) with
        i2sActive := true, frameNo := 0, run.schedule := es }
  /-- Switch 2 on the slave queues a packet (R128). -/
  | pressSlave (s : State) (b : BoardId) (es : List Event) (hr : s.role b = some .slave)
      (ha : s.i2sActive = true) (hp : s.txPending = none) :
      Effect s { (drawP05 b s) with
        txPending := some ⟨slavePacket s, Config.pktFrames⟩
        swNext := s.swNext ^^^ 0xFF#8
        run.schedule := es }
  /-- A frame is placed and received (R100). -/
  | frame (s : State) (note : Option Bool) (es : List Event) (hx : s.rx = none)
      (ha : s.i2sActive = true) (hm : s.masterBoard.isSome = true) (hj : s.jumpersRouted = true)
      (ht : ∀ r ∈ ampTable, Memory.read s.amp r.addr.toNat = some r.value)
      (hc : contention (allDrives note s) = none) :
      Effect s { (placed note s) with run.schedule := es }
  /-- The test harness fixes the next received word (R82). -/
  | inject (s : State) (w : PktWord) (es : List Event) :
      Effect s { s with run.inject := some w, run.schedule := es }
  /-- Nothing (R100). -/
  | idle (s : State) : Effect s s

theorem effect_of_event {e : Event} {es : List Event} (hx : s.rx = none) (hq : s.i2cQueue = [])
    (h : eventStep e { s with run.schedule := es } = .next t) : Effect s t := by
  cases e with
  | setP06 b l =>
    obtain ⟨hr, rfl⟩ := setP06_next h
    have := Effect.setP06 s b l es hr
    cases b <;> exact this
  | setJp41 b p =>
    obtain ⟨hr, rfl⟩ := setJp41_next h
    have := Effect.setJp41 s b p es hr
    cases b <;> exact this
  | boot b =>
    obtain ⟨hr, l, hl, ho, ⟨rfl, rfl⟩ | ⟨rfl, rfl⟩⟩ := boot_next h
    · have := Effect.bootSlave s b es hr hl ho
      cases b <;> exact this
    · have := Effect.bootMaster s b es hx hq hr hl ho
      cases b <;> exact this
  | pressSw2 b =>
    obtain ⟨hr, h⟩ | ⟨hr, h⟩ := pressSw2_next h
    · obtain ⟨hi, ha, hj, rfl⟩ := pressMaster_next h
      have := Effect.pressMaster s b es hx hr (by cases b <;> exact hi) (by cases b <;> exact ha)
        (by cases b <;> exact hj)
      cases b <;> exact this
    · obtain ⟨ha, hp, rfl⟩ := pressSlave_next h
      have := Effect.pressSlave s b es hr (by cases b <;> exact ha) (by cases b <;> exact hp)
      cases b <;> exact this
  | frame note =>
    obtain ⟨ha, hm, hj, ht, hc, rfl⟩ := frameStep_next h
    exact Effect.frame s note es hx ha hm hj ht hc
  | inject w =>
    simp only [eventStep, injectWord, Host.Outcome.next.injEq] at h
    subst h
    exact Effect.inject s w es

/-- A step that answers a next state started unmarked and has one of the effects. -/
theorem step_effect (h : step s = .next t) : s.faults = [] ∧ s.refused = false ∧ Effect s t := by
  obtain ⟨hf, hr, hc⟩ := step_cases h
  refine ⟨hf, hr, ?_⟩
  cases hc with
  | reaction w u hw hu ht =>
    subst ht
    rcases runPacket_next hu with rfl | ⟨b, x, hb, rfl, hx⟩
    · exact Effect.ignored _ w hw
    · have := Effect.led s w b x hw hb hx
      cases b <;> exact this
  | write w ws hr hq hl ht => subst ht; exact Effect.write s w ws hr hq hl
  | event e es hx hq hs ht => exact effect_of_event hx hq ht
  | frame hx hq hs ht =>
    obtain ⟨ha, hm, hj, hr, hc, rfl⟩ := frameStep_next ht
    have := Effect.frame s none s.run.schedule hx ha hm hj hr hc
    exact this
  | idle hr hq hs ha ht => subst ht; exact Effect.idle _

/-! ### Boards of distinct roles (R122) -/

/-- Where no two boards have the same role, at most one board has a role. -/
theorem boardsWith_distinct (h : Safety.rolesDistinct s = true) (r : Role) :
    s.boardsWith r = (s.boardsWith r).head?.toList := by
  simp only [Safety.rolesDistinct, Bool.or_eq_true, bne_iff_ne] at h
  simp only [State.boardsWith, List.filter_cons, List.filter_nil]
  by_cases h1 : s.role .one = some r <;> by_cases h2 : s.role .two = some r <;> simp_all

end Sys2Proof.Laws
end

