-- ==== Sys2Proof/Tests/Slice0.lean ====
section
/-!
SUPPORT. The model's own tests: words written out from the spec's encodings, single steps with results taken
from spec/95_test_vectors.md, and for every statement with hypotheses a witness that meets them together.
-/

namespace Sys2Proof.Tests

-- One theorem at a time: each waits for the kernel, and hundreds of waiting threads would need too much memory.
set_option Elab.async false

open Sys2Proof Sys2Proof.Machine Sys2Proof.Safety Sys2Proof.Claims

/-! ### Small states -/

/-- The user's settings of scenario P1, lines 1 to 3: board one will be the master, board two the slave. -/
def pins : State := { State.reset with
  board1 := { Board.reset with p06 := some .high, jp41 := .pos23 }
  board2 := { Board.reset with p06 := some .low, jp41 := .pos23 } }
/-- The master alone has booted and has the 40 writes to do. -/
def master : State := bootMaster .one pins
/-- Both have booted. -/
def pair : State := bootSlave .two master
/-- The 11 rows of the table whose value is no power-up default (R166, R167). -/
def configured : Memory :=
  [(0x2040, 0xD9#8), (0x2041, 0x08#8), (0x2042, 0x88#8), (0x2044, 0x10#8), (0x2045, 0x14#8),
   (0x2059, 0x10#8), (0x205D, 0x03#8), (0x205E, 0x01#8), (0x205F, 0x01#8), (0x209F, 0x01#8),
   (0x20A7, 0x03#8)]
/-- Both have booted and the amplifier is configured. -/
def ready : State := { pair with amp := configured, ampInitIdx := 40, i2cQueue := [] }
/-- The bus is active. -/
def active : State := { ready with i2sActive := true, board1 := { ready.board1 with green := some .on } }
/-- The bus is active and the slave has not booted. -/
def alone : State := { active with board2 := Board.reset }
/-- The slave's first packet waits, with the premise `NoNoise`. -/
def waiting (left : Nat) : State :=
  { active with txPending := some ⟨packetOn, left⟩, swNext := 0x00#8, run.noNoise := true }
/-- A word has been received. -/
def received (w : PktWord) : State := { active with rx := some w }
/-- The bus is active and both boards are masters. -/
def clash : State := { active with board2 := { active.board2 with role := some .master } }
/-- The bus is active and the slave booted with JP41 in its default position. -/
def unrouted : State := { active with board2 := { active.board2 with jp41 := .pos12 } }
/-- The bus is active and no board is the master. -/
def headless : State := { active with board1 := Board.reset }
/-- A state with one event to come. -/
def before (e : Event) (s : State) : State := { s with run.schedule := [e] }

/-- A packet word with the CRC of its own fields, whatever `crc8` is. -/
def good (s : Nibble) (l : Byte) (d : PktData) : PktWord :=
  pktWord s l d (crc8 ([s ++ Config.startNibble, l] ++ dataBytes d ++ [0x00#8]))
theorem good_crcOk (s : Nibble) (l : Byte) (d : PktData) : crcOk (good s l d) = true :=
  (Laws.crcOk_pktWord _ _ _ _).2 rfl
theorem good_valid (s : Nibble) (l : Byte) (d : PktData) : valid (good s l d) = true :=
  Laws.valid_iff.2 ⟨Laws.pktStart_pktWord .., good_crcOk s l d⟩

/-- The state a step answers, or the given one where it stops. -/
def after (o : Result) : State :=
  match o with
  | .next t => t
  | _ => State.reset

/-- Whether a step answers this next state; whether it is refused for this reason. -/
def nextIs (o : Result) (t : State) : Bool :=
  match o with
  | .next u => u == t
  | _ => false
def refusedIs (o : Result) (r : Refusal) : Bool :=
  match o with
  | .refused q => q == r
  | _ => false

theorem eq_next {o : Result} {t : State} (h : nextIs o t = true) : o = .next t := by
  cases o <;> simp_all [nextIs]
theorem eq_refused {o : Result} {r : Refusal} (h : refusedIs o r = true) : o = .refused r := by
  cases o <;> simp_all [refusedIs]

/-! ### Well-formedness -/

/-- The packets of R147 are well-formed; so is a register write. -/
theorem test_wellFormed_packets : WellFormed (.pktSrcGpio 0x01#8 0x00000000FF#40 0xB7#8) = true ∧
    WellFormed (.pktSrcGpio 0x01#8 0x0000000000#40 0x18#8) = true ∧ WellFormed .ampwBrwnout = true := by
  decide +kernel
/-- A length above 5 is refused: length 6 with its own CRC, which is right. -/
theorem test_wellFormed_refuses_length : crcOk (good 0#4 0x06#8 0#40) = true ∧
    lengthFits 0x05#8 = true ∧ lengthFits 0x06#8 = false ∧
    ∀ c, WellFormed (.pktSrcGpio 0x06#8 0#40 c) = false :=
  ⟨good_crcOk _ _ _, by decide, by decide, fun _ => rfl⟩
/-- A byte after the data is refused: the vector `tail` (95_test_vectors.md 2.3), whose CRC is right. -/
theorem test_wellFormed_refuses_tail : crcOk (good 0#4 0x01#8 0x00000001FF#40) = true ∧
    crcOkWith crc8Default 0xD500000001FF010D#64 = true ∧
    tailZero 0x01#8 0x00000001FF#40 = false ∧
    ∀ c, WellFormed (.pktSrcGpio 0x01#8 0x00000001FF#40 c) = false :=
  ⟨good_crcOk _ _ _, by decide +kernel, by decide +kernel, fun _ => rfl⟩
/-- A wrong CRC is refused: bit 56 of the first packet changed. -/
theorem test_wellFormed_refuses_crc : crcOk 0xB600000000FF010D#64 = false ∧
    WellFormed (.pktSrcGpio 0x01#8 0x00000000FF#40 0xB6#8) = false := by
  decide +kernel

/-! ### Decoding: words written out from the spec's encodings -/

/-- The patterns R300 to R304 print, each with the instruction it stands for. -/
def protectionWords : List (AmpWord × Instr) :=
  [(0b001000000010000000001010#24, .ampwThermalWrn),
   (0b001000000011000101011000#24, .ampwSpkMonThresh),
   (0b001000000011001000001000#24, .ampwSpkMonLoad),
   (0b001000000011001100000010#24, .ampwSpkMonDur),
   (0b001000000011011100000001#24, .ampwErrorMonCtl)]

/-- The patterns R305 to R309 print, each with the instruction it stands for. -/
def formatWords : List (AmpWord × Instr) :=
  [(0b001000000100000011011001#24, .ampwPcmModeCfg),
   (0b001000000100000100001000#24, .ampwPcmClkSetup),
   (0b001000000100001010001000#24, .ampwPcmSampleRate),
   (0b001000000100010000010000#24, .ampwPcmTxCtl1),
   (0b001000000100010100010100#24, .ampwPcmTxCtl2)]

/-- The patterns R310 to R317 print, each with the instruction it stands for. -/
def hizWords : List (AmpWord × Instr) :=
  [(0b001000000101000011111111#24, .ampwPcmHizCtl1),
   (0b001000000101000111111111#24, .ampwPcmHizCtl2),
   (0b001000000101001011111111#24, .ampwPcmHizCtl3),
   (0b001000000101001111111111#24, .ampwPcmHizCtl4),
   (0b001000000101010011111111#24, .ampwPcmHizCtl5),
   (0b001000000101010111111111#24, .ampwPcmHizCtl6),
   (0b001000000101011011111111#24, .ampwPcmHizCtl7),
   (0b001000000101011111111111#24, .ampwPcmHizCtl8)]

/-- The patterns R318 to R323 print, each with the instruction it stands for. -/
def routingWords : List (AmpWord × Instr) :=
  [(0b001000000101100000000000#24, .ampwPcmRxSrc1),
   (0b001000000101100100010000#24, .ampwPcmRxSrc2),
   (0b001000000101110000000001#24, .ampwPcmTxDrvStr),
   (0b001000000101110100000011#24, .ampwPcmTxSrcEn),
   (0b001000000101111000000001#24, .ampwPcmRxEn),
   (0b001000000101111100000001#24, .ampwPcmTxEn)]

/-- The patterns R324 to R330 print, each with the instruction it stands for. -/
def speakerWords : List (AmpWord × Instr) :=
  [(0b001000001001000000000000#24, .ampwSpkVolCtl),
   (0b001000001001000100000010#24, .ampwSpkChCfg),
   (0b001000001001001000000011#24, .ampwSpkAmpOutCfg),
   (0b001000001001001100000001#24, .ampwSpkAmpSsmCfg),
   (0b001000001001010000001111#24, .ampwSpkAmpEdgeRateCtl),
   (0b001000001001111000000000#24, .ampwSpkChPinkNoiseEn),
   (0b001000001001111100000001#24, .ampwSpkChAmpEn)]

/-- The patterns R331, R332 print, each with the instruction it stands for. -/
def ivWords : List (AmpWord × Instr) :=
  [(0b001000001010000000010000#24, .ampwIvDataDspCtl),
   (0b001000001010011100000011#24, .ampwIvDataEn)]

/-- The patterns R333 to R339 print, each with the instruction it stands for. -/
def brownOutWords : List (AmpWord × Instr) :=
  [(0b001000001110000000000100#24, .ampwBrwnoutProtAlcThresh),
   (0b001000001110000100100000#24, .ampwBrwnoutProtAlcRates),
   (0b001000001110001000000110#24, .ampwBrwnoutProtAlcAttn),
   (0b001000001110001100000010#24, .ampwBrwnoutProtAlcRelease),
   (0b001000001110010000110011#24, .ampwBrwnout),
   (0b001000001110111000000000#24, .ampwBrwnoutProtAlcInfHoldRelease),
   (0b001000001110111100000000#24, .ampwBrwnoutProtAlcEn)]

/-- Every register write decodes from the pattern its rule prints, and encodes to it. -/
theorem test_decode_protection : ∀ p ∈ protectionWords,
    decode (.ampw24 p.1) = .ok p.2 ∧ encode p.2 = .ampw24 p.1 := by decide +kernel
theorem test_decode_format : ∀ p ∈ formatWords,
    decode (.ampw24 p.1) = .ok p.2 ∧ encode p.2 = .ampw24 p.1 := by decide +kernel
theorem test_decode_hiz : ∀ p ∈ hizWords,
    decode (.ampw24 p.1) = .ok p.2 ∧ encode p.2 = .ampw24 p.1 := by decide +kernel
theorem test_decode_routing : ∀ p ∈ routingWords,
    decode (.ampw24 p.1) = .ok p.2 ∧ encode p.2 = .ampw24 p.1 := by decide +kernel
theorem test_decode_speaker : ∀ p ∈ speakerWords,
    decode (.ampw24 p.1) = .ok p.2 ∧ encode p.2 = .ampw24 p.1 := by decide +kernel
theorem test_decode_iv : ∀ p ∈ ivWords,
    decode (.ampw24 p.1) = .ok p.2 ∧ encode p.2 = .ampw24 p.1 := by decide +kernel
theorem test_decode_brownOut : ∀ p ∈ brownOutWords,
    decode (.ampw24 p.1) = .ok p.2 ∧ encode p.2 = .ampw24 p.1 := by decide +kernel

/-- 95_test_vectors.md 1.2: the first packet, W[63] first. -/
theorem test_decode_packet_high : decode
    (.pkt64 0b1011011100000000000000000000000000000000111111110000000100001101#64) =
    .ok (.pktSrcGpio 0x01#8 0x00000000FF#40 0xB7#8) := by decide +kernel
/-- 95_test_vectors.md 1.2: the second packet. -/
theorem test_decode_packet_low : decode
    (.pkt64 0b0001100000000000000000000000000000000000000000000000000100001101#64) =
    .ok (.pktSrcGpio 0x01#8 0x0000000000#40 0x18#8) := by decide +kernel
/-- 95_test_vectors.md 2.3, `len5`: the five data bytes, `data[4]` highest. -/
theorem test_decode_packet_fields : decode (.pkt64 0x500504030201050D#64) =
    .ok (.pktSrcGpio 0x05#8 0x0504030201#40 0x50#8) ∧
    dataBytes 0x0504030201#40 = [0x01, 0x02, 0x03, 0x04, 0x05] := by decide +kernel
/-- 95_test_vectors.md 2.3 and 2.4: what no row reads is rejected by name. -/
theorem test_decode_rejects :
    decode (.pkt64 0x6300000000FF0101#64) = .error .notAPacket ∧
    decode (.pkt64 0x8000000000FF011D#64) = .error (.otherSource 0x1#4) ∧
    decode (.ampw24 0x204300#24) = .error (.unlistedAmpRegister 0x2043#16) ∧
    decode (.ampw24 0x200001#24) = .error (.unlistedAmpRegister 0x2000#16) := by decide +kernel
/-- The bytes of a unit: a packet's first byte is its lowest (R141, R142); the host's word order. -/
theorem test_decode_buffer :
    decodeTableWord 64 0xB700000000FF010D = some (.pktSrcGpio 0x01#8 0x00000000FF#40 0xB7#8) ∧
    decodeTableWord 8 0x0D = some (.pktSrcGpio 0x00#8 0x0000000000#40 0x00#8) ∧
    decodeTableWord 24 0x2040D9 = some .ampwPcmModeCfg ∧ decodeTableWord 24 0x204300 = none := by
  decide +kernel

/-! ### The packet (95_test_vectors.md 2.3) -/

/-- `T[b]`, the register after one byte from zero. -/
theorem test_crc_table : [0x00, 0x01, 0x0F, 0x10, 0x1F, 0x22, 0x80, 0xFF].map (crcByte 0x00#8) =
    [0x00, 0x07, 0x2D, 0x70, 0x5D, 0xEE, 0x89, 0xF3] := by decide +kernel
/-- `BuildPacket` of the vectors `d80`, `len0`, `len2`, `len5_FF`, `src1`, `srcF`, under the default `crc8`. -/
theorem test_buildPacket :
    buildPacketWith crc8Default 0x0#4 0x01#8 [0x80, 0x00, 0x00, 0x00, 0x00] = 0xF40000000080010D#64 ∧
    buildPacketWith crc8Default 0x0#4 0x00#8 [0x00, 0x00, 0x00, 0x00, 0x00] = 0xC70000000000000D#64 ∧
    buildPacketWith crc8Default 0x0#4 0x02#8 [0x12, 0x34, 0x00, 0x00, 0x00] = 0x6B0000003412020D#64 ∧
    buildPacketWith crc8Default 0x0#4 0x05#8 [0xFF, 0xFF, 0xFF, 0xFF, 0xFF] = 0xD6FFFFFFFFFF050D#64 ∧
    buildPacketWith crc8Default 0x1#4 0x01#8 [0xFF, 0x00, 0x00, 0x00, 0x00] = 0x8000000000FF011D#64 ∧
    buildPacketWith crc8Default 0xF#4 0x01#8 [0xFF, 0x00, 0x00, 0x00, 0x00] = 0x8D00000000FF01FD#64 := by decide +kernel
/-- The classes of the vectors of 2.3 and 2.5, under the default `crc8`. -/
theorem test_classes :
    pktClassWith crc8Default 0x6300000000FF0101#64 = .notAPacket ∧
    pktClassWith crc8Default 0x0000000000000000#64 = .notAPacket ∧
    pktClassWith crc8Default 0xFFFFFFFFFFFFFFFF#64 = .notAPacket ∧
    pktClassWith crc8Default 0xB700000000FE010D#64 = .corrupted ∧
    pktClassWith crc8Default 0x000000000000000D#64 = .corrupted ∧
    pktClassWith crc8Default 0xB700000000FF011D#64 = .corrupted ∧
    pktClassWith crc8Default 0x8D00000000FF01FD#64 = .unimplementedSource 0xF#4 ∧
    pktClassWith crc8Default 0xB700000000FF010D#64 = .ledOn ∧
    pktClassWith crc8Default 0x180000000000010D#64 = .ledOff ∧
    pktClassWith crc8Default 0xD500000001FF010D#64 = .unspecifiedPayload ∧
    pktClassWith crc8Default 0xD100000000FF020D#64 = .unspecifiedPayload := by decide +kernel
/-- The machine's own `crc8` has both pairs of R147 and takes byte 7 as zero; one bit of CRC is enough. -/
theorem test_classes_of_the_pairs : pktClass packetOn = .ledOn ∧ pktClass packetOff = .ledOff ∧
    pktClass 0xB600000000FF010D#64 = .corrupted ∧ pktClass 0x6300000000FF0101#64 = .notAPacket ∧
    buildPacket 0x0#4 0x01#8 [0xFF, 0x00, 0x00, 0x00, 0x00] = packetOn ∧
    buildPacket 0x0#4 0x01#8 [0x00, 0x00, 0x00, 0x00, 0x00] = packetOff := by decide +kernel
/-- Scenario P3 lines 3 and 7: a good packet sets the level, and the frame is counted. -/
theorem test_step_packet : (after (step (received 0xB700000000FF010D#64))).led .one .ledRx = some .on ∧
    (after (step (received 0x180000000000010D#64))).led .one .ledRx = some .off ∧
    (after (step (received 0xB700000000FF010D#64))).frameNo = 1 := by decide +kernel
/-- Scenario P3 lines 4 and 9, with words that are wrong or right for every `crc8`: a corrupted word changes
nothing but the frame number; a valid one with source 1, or with length 2, refuses the run. -/
theorem test_step_foreign_words :
    step (received 0xB600000000FF010D#64) = .next { active with frameNo := 1 } ∧
    step (received (good 0x1#4 0x01#8 0x00000000FF#40)) =
      .refused (.unimplementedSource 0x1#4 { active with refused := true }) ∧
    step (received (good 0x0#4 0x02#8 0x00000000FF#40)) =
      .refused (.unspecifiedGpioPayload { active with refused := true }) := by
  have h : ∀ w, step (received w) = andThen (runPacket w active) endFrame := fun _ => rfl
  refine ⟨eq_next (by decide +kernel), ?_, ?_⟩ <;>
    rw [h, Laws.runPacket_eq, Laws.pktClass_eq, good_crcOk] <;>
    simp [good, Config.srcGpio, refuse, State.markRefused, andThen]

/-! ### Register writes (95_test_vectors.md 2.4) -/

/-- `AMPW(0x2040, 0xD9)`: no value before, 0xD9 after; one write counted, none past 40. -/
theorem test_step_write : Memory.read State.reset.amp 0x2040 = none ∧
    Memory.read (after (step (State.reset.withFetchWord 24 0x2040D9))).amp 0x2040 = some 0xD9#8 ∧
    (after (step (State.reset.withFetchWord 24 0x2040D9))).ampInitIdx = 1 ∧
    (after (step (active.withFetchWord 24 0x2040D9))).ampInitIdx = 40 := by decide +kernel
/-- `AMPW(0x2020, 0x0A)`: the default before and after, and no entry in the memory. -/
theorem test_step_write_default : Memory.read State.reset.amp 0x2020 = some 0x0A#8 ∧
    (after (step (State.reset.withFetchWord 24 0x20200A))).amp = [] := by decide +kernel
/-- `AMPW(0x2043, 0x00)` is refused; another value at a listed address is written. -/
theorem test_step_write_other :
    runAmpWord 0x204300#24 master =
      .refused (.unlistedAmpRegister 0x2043#16 { master with refused := true }) ∧
    (after (runAmpWord 0x202007#24 master)).amp = [(0x2020, 0x07#8)] :=
  ⟨eq_refused (by decide +kernel), by decide +kernel⟩
/-- The memory at reset and the configured one are canonical; the configured one is the table (2.4). -/
theorem test_memory_form : Memory.wf State.reset.amp = true ∧ Memory.wf configured = true ∧
    Memory.wf [(0x2041, 1#8), (0x2040, 1#8)] = false ∧ Memory.wf [(0x2043, 1#8)] = false ∧
    Memory.wf [(0x2020, 0x0A#8)] = false := by decide +kernel
/-- The end state of `AmpInit` (2.4). -/
theorem test_configured : ∀ r ∈ ampTable, Memory.read configured r.addr.toNat = some r.value := by
  decide +kernel

/-! ### Board events (95_test_vectors.md 2.2) -/

/-- Row 1: a slave's boot. -/
theorem test_boot_slave : (after (step (before (.boot .two) pins))).role .two = some .slave ∧
    (after (step (before (.boot .two) pins))).led .two .blue = some .on ∧
    (after (step (before (.boot .two) pins))).led .two .green = none := by decide +kernel
/-- Row 2: a master's boot, whose register writes follow it. -/
theorem test_boot_master : (after (step (before (.boot .one) pins))).role .one = some .master ∧
    (after (step (before (.boot .one) pins))).led .one .blue = none ∧
    (after (step (before (.boot .one) pins))).i2cQueue.length = 40 := by decide +kernel
/-- Rows 6 and 9: Switch 2 on the master starts the bus; on the slave it queues the first packet. -/
theorem test_press : (after (step (before (.pressSw2 .one) ready))).i2sActive = true ∧
    (after (step (before (.pressSw2 .one) ready))).led .one .green = some .on ∧
    (after (step (before (.pressSw2 .two) active))).txPending.map (·.word) =
      some 0xB700000000FF010D#64 ∧
    (after (step (before (.pressSw2 .two) active))).swNext = 0x00#8 := by
  refine ⟨rfl, rfl, ?_, rfl⟩
  decide +kernel
/-- Row 3: a boot without P0_6 set does not exist. -/
theorem test_boot_not_enabled : step (before (.boot .one) State.reset) =
    .refused (.notEnabled (.p06Set .one)) := eq_refused (by decide +kernel)
/-- JP41 is moved before any board boots and not after (R36, R212). -/
theorem test_jumper :
    ((after (step (before (.setJp41 .one .pos12) pins))).board .one).jp41 = .pos12 ∧
    step (before (.setJp41 .one .pos12) ready) = .refused (.notEnabled (.jumperBeforeBoot .one)) ∧
    step (before (.setJp41 .two .pos12) alone) = .refused (.notEnabled (.jumperBeforeBoot .two)) :=
  ⟨by decide +kernel, eq_refused (by decide +kernel), eq_refused (by decide +kernel)⟩
/-- P0_6 is set before any board boots and not after (R131, R212 item 5; P2d of 95_test_vectors.md). -/
theorem test_level :
    ((after (step (before (.setP06 .two .high) pins))).board .two).p06 = some .high ∧
    step (before (.setP06 .two .high) ready) =
      .refused (.roleChangeAfterBoot { ready with refused := true }) ∧
    step (before (.setP06 .two .low) alone) = .refused (.notEnabled (.p06BeforeBoot .two)) :=
  ⟨by decide +kernel, eq_refused (by decide +kernel), eq_refused (by decide +kernel)⟩
/-- A bench is ready before boot with both levels and both jumpers set, and not with a jumper in 1-2. -/
theorem test_benchReady : benchReady pins = true ∧ benchReady State.reset = false ∧
    benchReady { pins with board2 := { pins.board2 with jp41 := .pos12 } } = false := by decide +kernel
/-- With JP41 in its default position on a booted board the bus cannot be started and carries nothing. -/
theorem test_jumper_needed :
    step (before (.pressSw2 .one) { unrouted with i2sActive := false }) =
      .refused (.notEnabled .jumpersRouted) ∧
    step (before (.frame none) unrouted) = .refused (.notEnabled .jumpersRouted) :=
  ⟨eq_refused (by decide +kernel), eq_refused (by decide +kernel)⟩

/-! ### The bus (95_test_vectors.md 2.1) -/

/-- Positions: channel, bit in channel, pair. -/
theorem test_positions : [0, 31, 32, 127, 128, 130, 160, 175, 192, 255].map
    (fun p => (channelOf p, bitInChannel p, pairOf p)) =
    [(0, 0, 0), (0, 31, 0), (1, 0, 0), (3, 31, 1), (4, 0, 2), (4, 2, 2), (5, 0, 2), (5, 15, 2),
      (6, 0, 3), (7, 31, 3)] := by decide +kernel
/-- The slave's cells of a frame that sends the waiting packet, and the frame's empty cells (P1 line 9). -/
theorem test_frame_cells :
    (placed (some true) (waiting 1)).txPending = none ∧
    (placed (some false) (waiting 1)).txPending = some ⟨packetOn, 1⟩ ∧
    (placed (some true) (waiting 2)).txPending = some ⟨packetOn, 1⟩ ∧
    slaveCells (some true) (waiting 1) = wireEncode packetOn := by
  refine ⟨by decide +kernel, by decide +kernel, by decide +kernel, rfl⟩
/-- The rows of the AUD INT 3 connector (R163): three pins a column. -/
theorem test_connector_rows : Config.audInt3Row 3 = .bottom ∧ Config.audInt3Row 20 = .middle ∧
    Config.audInt3Row 5 = .middle := by decide +kernel
/-- What the master receives where nothing is injected (R107): at reset's own `noNoise`, false, both cells are
draws; with the premise and no packet, the idle fill; with no slave (scenario P5) the floating cells. -/
theorem test_received :
    (placed none active).rx = some (wireDecode (Config.noise 0 2, Config.noise 0 3)) ∧
    (placed (some false) (waiting 1)).rx = some (wireDecode (Config.idleFill 0 2, Config.idleFill 0 3)) ∧
    (placed none alone).rx = some (wireDecode (Config.float 0 2, Config.float 0 3)) ∧
    (placed none { alone with run.noNoise := true }).rx =
      some (wireDecode (Config.float 0 2, Config.float 0 3)) := by
  unfold placed allDrives ampDrives State.ampOutputEnabled
  generalize Config.ampGlobalEn = d
  cases d <;> exact ⟨rfl, rfl, rfl, rfl⟩
/-- An unconfigured amplifier (no value in 11 registers), or one other value, refuses the frame (R170, R191). -/
theorem test_frame_unknown_config :
    step (before (.frame none) { active with amp := [] }) =
      .refused (.unknownAmpConfig { active with amp := [], refused := true }) ∧
    step (before (.frame none) { active with amp := (0x2020, 0x07#8) :: configured }) =
      .refused (.unknownAmpConfig { active with amp := (0x2020, 0x07#8) :: configured, refused := true }) :=
  ⟨eq_refused (by decide +kernel), eq_refused (by decide +kernel)⟩
/-- An injected word is what the next frame receives (R82). -/
theorem test_inject : (placed none { active with run.inject := some packetOff }).rx = some packetOff := rfl

/-! ### Witnesses: states and operands that meet the hypotheses of each statement together -/

theorem active_writeReady : writeReady active := ⟨⟨.one, rfl⟩, rfl⟩
theorem active_ampIsTable : ampIsTable active := test_configured
theorem active_frameReady : frameReady active := ⟨rfl, rfl, rfl, rfl, test_configured⟩
theorem waiting_frameReady (n : Nat) : frameReady (waiting n) := ⟨rfl, rfl, rfl, rfl, test_configured⟩

/-- An active bus with both boards booted meets the invariant. -/
theorem active_inv : Inv active where
  unmarked := by decide +kernel
  rolesDistinct := by decide +kernel
  roleOfPin := by intro b; cases b <;> decide +kernel
  slaveBlueOn := by intro b; cases b <;> decide +kernel
  ampWf := by decide +kernel
  masterProgress := by decide +kernel
  ampWritten := by decide +kernel
  activeConfigured := by decide +kernel
  inactiveQuiet := by decide +kernel
  framesCounted := by decide +kernel
  slaveSends := by decide +kernel
  historyAllocated := by decide +kernel

/-- An active bus with an event to come meets the invariant too. -/
theorem before_inv (e : Event) : Inv (before e active) :=
  { active_inv with
    roleOfPin := active_inv.roleOfPin, slaveBlueOn := active_inv.slaveBlueOn }

/-- So does a configured one whose master is about to start the bus. -/
theorem ready_inv : Inv (before (.pressSw2 .one) ready) where
  unmarked := by decide +kernel
  rolesDistinct := by decide +kernel
  roleOfPin := by intro b; cases b <;> decide +kernel
  slaveBlueOn := by intro b; cases b <;> decide +kernel
  ampWf := by decide +kernel
  masterProgress := by decide +kernel
  ampWritten := by decide +kernel
  activeConfigured := by decide +kernel
  inactiveQuiet := by decide +kernel
  framesCounted := by decide +kernel
  slaveSends := by decide +kernel
  historyAllocated := by decide +kernel

theorem witness_EncodeDecodeEveryWord :
    decode (.pkt64 packetOn) = .ok (.pktSrcGpio 0x01#8 0x00000000FF#40 0xB7#8) ∧
    decode (.ampw24 0x2040D9#24) = .ok .ampwPcmModeCfg := by decide +kernel

/-- Both ends of the range of bit positions. -/
theorem witness_SingleBitErrorsAreCaught : validWith crc8Default packetOn = true ∧ 0 < 64 ∧ 63 < 64 ∧
    validWith crc8Default (packetOn ^^^ (1#64 <<< 0)) = false ∧
    validWith crc8Default (packetOn ^^^ (1#64 <<< 63)) = false := by
  decide +kernel

/-- The longest length, 5, with data in the fifth byte, and the shortest, 0, with none (the CRC is no part of
what is asked). -/
theorem witness_BuiltPacketsAreValid :
    (0x0#4 : Nibble) = 0x0#4 ∧ (0x05#8).toNat ≤ 5 ∧ (0x00#8).toNat ≤ 5 ∧
    tailZero 0x05#8 (pktData (buildPacketWith crc8Default 0x0#4 0x05#8 [1, 2, 3, 4, 5])) = true ∧
    tailZero 0x01#8 (pktData (buildPacket 0x0#4 0x01#8 [0xFF, 0, 0, 0, 0])) = true := by decide +kernel

/-- A word that fails the start nibble, one that fails the CRC, and a row of the table that does. -/
theorem witness_InvalidWordsAreIgnored : valid 0x6300000000FF0101#64 = false ∧
    valid 0xB600000000FF010D#64 = false ∧
    crcOk (pktWord 0x0#4 0x01#8 0x00000000FF#40 0xB6#8) = false := by decide +kernel

/-- With a master and without one, a good CRC: for LED on, for LED off, and for neither (data 0x80; length 2;
a byte after the data). -/
theorem witness_GpioActionSetsALevel : active.masterBoard = some .one ∧ headless.masterBoard = none ∧
    crcOk (pktWord 0x0#4 0x01#8 0x00000000FF#40 0xB7#8) = true ∧
    dataBytes 0x00000000FF#40 = [0xFF, 0x00, 0x00, 0x00, 0x00] ∧
    crcOk (pktWord 0x0#4 0x01#8 0x0000000000#40 0x18#8) = true ∧
    dataBytes 0x0000000000#40 = [0x00, 0x00, 0x00, 0x00, 0x00] ∧
    (∃ c, crcOk (pktWord 0x0#4 0x01#8 0x0000000080#40 c) = true) ∧
    (∃ c, crcOk (pktWord 0x0#4 0x02#8 0x00000000FF#40 c) = true) ∧
    (∃ c, crcOk (pktWord 0x0#4 0x01#8 0x00000001FF#40 c) = true) :=
  ⟨rfl, rfl, by decide +kernel, by decide +kernel, by decide +kernel, by decide +kernel,
    ⟨_, good_crcOk _ _ _⟩, ⟨_, good_crcOk _ _ _⟩, ⟨_, good_crcOk _ _ _⟩⟩

/-- The sources 1 and 15. -/
theorem witness_OtherSourcesAreRefused :
    (valid (good 0x1#4 0x01#8 0x00000000FF#40) = true ∧
      pktSource (good 0x1#4 0x01#8 0x00000000FF#40) ≠ 0x0#4) ∧
    (valid (good 0xF#4 0x01#8 0x00000000FF#40) = true ∧
      pktSource (good 0xF#4 0x01#8 0x00000000FF#40) ≠ 0x0#4) :=
  ⟨⟨good_valid _ _ _, by simp [good]⟩, ⟨good_valid _ _ _, by simp [good]⟩⟩

theorem witness_ReceptionFollowsTheClasses : active.masterBoard = some .one := rfl

/-- A packet that changes LED_RX and one that is ignored. -/
theorem witness_PacketChangesOnlyLedRx :
    exec (.pktSrcGpio 0x01#8 0x00000000FF#40 0xB7#8) active = .next (active.setLed .one .ledRx .on) ∧
    exec (.pktSrcGpio 0x01#8 0x00000000FF#40 0xB6#8) active = .next active :=
  ⟨eq_next (by decide +kernel), eq_next (by decide +kernel)⟩

/-- For the seven statements on the rows of the table: a master that can write, with the first write to do, with
the last, and with none. -/
theorem witness_RegisterWrites : (writeReady master ∧ master.ampInitIdx < 40) ∧
    (writeReady { master with ampInitIdx := 39 } ∧ 39 < 40) ∧
    (writeReady active ∧ 40 ≤ active.ampInitIdx) :=
  ⟨⟨⟨⟨.one, rfl⟩, rfl⟩, by decide +kernel⟩, ⟨⟨⟨.one, rfl⟩, rfl⟩, by decide⟩,
    active_writeReady, by decide +kernel⟩

/-- The lowest and the highest listed address, an address between two listed ones, and the lowest and
highest addresses there are. -/
theorem witness_RegisterWriteOperation : writeReady master ∧
    (∃ r ∈ ampTable, r.addr = 0x2020#16) ∧ (∃ r ∈ ampTable, r.addr = 0x20EF#16) ∧
    (∀ r ∈ ampTable, r.addr ≠ 0x2043#16) ∧ (∀ r ∈ ampTable, r.addr ≠ 0x0000#16) ∧
    (∀ r ∈ ampTable, r.addr ≠ 0xFFFF#16) ∧ (∃ r ∈ ampTable, r.isDefault = true) ∧
    Memory.wf configured = true ∧ ampListed 0x2020 = true ∧ ampListed 0x20EF = true :=
  ⟨⟨⟨.one, rfl⟩, rfl⟩, by decide +kernel, by decide +kernel, by decide +kernel, by decide +kernel,
    by decide +kernel, by decide +kernel, by decide +kernel, by decide +kernel, by decide +kernel⟩

theorem witness_OnlyAMasterWritesRegisters : encode .ampwBrwnout = .ampw24 0x20E433#24 ∧
    (∀ b, State.reset.role b ≠ some .master) ∧
    (∃ b, State.role { master with i2cReady := false } b = some .master) ∧
    { master with i2cReady := false }.i2cReady = false :=
  ⟨by decide +kernel, by intro b; cases b <;> decide +kernel, ⟨.one, rfl⟩, rfl⟩

/-- With the last write to do, so that the first write reaches 40 and the second stays there, and before it. -/
theorem witness_RegisterWriteTwiceLeavesTheRegistersOfOne :
    (Memory.wf configured = true ∧ ampListed 0x2040 = true) ∧
    (Memory.wf master.amp = true ∧ writeReady master ∧ (∃ r ∈ ampTable, r.addr = 0x2040#16) ∧
      (after (runAmpWord 0x2040D9#24 master)).ampInitIdx < 40) ∧
    (writeReady { master with ampInitIdx := 39 } ∧
      40 ≤ (after (runAmpWord 0x2040D9#24 { master with ampInitIdx := 39 })).ampInitIdx) :=
  ⟨by decide +kernel, ⟨by decide +kernel, ⟨⟨.one, rfl⟩, rfl⟩, by decide +kernel, by decide +kernel⟩,
    ⟨⟨⟨.one, rfl⟩, rfl⟩, by decide +kernel⟩⟩

theorem witness_AmpInitReachesTheTable : unmarked master = true ∧ master.rx = none ∧ writeReady master ∧
    master.ampInitIdx = 0 ∧ master.i2cQueue = ampWords ∧ Memory.wf master.amp = true :=
  ⟨by decide +kernel, by decide +kernel, ⟨⟨.one, rfl⟩, rfl⟩, by decide +kernel, by decide +kernel,
    by decide +kernel⟩

/-- A word that decodes, one that fails the start nibble, one that fails the CRC, a valid one of source 1. -/
theorem witness_StepRunsTheReceivedPacket : (∀ w, unmarked (received w) = true ∧ (received w).rx = some w) ∧
    decodePkt packetOn = .ok (.pktSrcGpio 0x01#8 0x00000000FF#40 0xB7#8) ∧
    valid 0x6300000000FF0101#64 = false ∧ valid 0xB600000000FF010D#64 = false ∧
    valid (good 0x1#4 0x01#8 0x00000000FF#40) = true ∧
    pktSource (good 0x1#4 0x01#8 0x00000000FF#40) ≠ 0x0#4 :=
  ⟨fun _ => ⟨rfl, rfl⟩, by decide +kernel, by decide +kernel, by decide +kernel, good_valid _ _ _,
    by simp [good]⟩

/-- A row of the table, another value at the last listed address, an unlisted address. -/
theorem witness_StepRunsTheRegisterWrite :
    (∀ w, unmarked { master with i2cQueue := [w] } = true ∧ { master with i2cQueue := [w] }.rx = none ∧
      writeReady { master with i2cQueue := [w] }) ∧
    decodeAmpw 0x20200A#24 = .ok .ampwThermalWrn ∧
    (∃ r ∈ ampTable, r.addr = ampAddr 0x20EF55#24) ∧ (∀ r ∈ ampTable, r.addr ≠ ampAddr 0x204300#24) :=
  ⟨fun _ => ⟨rfl, rfl, ⟨.one, rfl⟩, rfl⟩, by decide +kernel, by decide +kernel, by decide +kernel⟩

/-- An event to come; none, with the bus active; none, with the bus inactive. -/
theorem witness_StepTakesTheNextEvent :
    (unmarked (before (.boot .one) pins) = true ∧ (before (.boot .one) pins).rx = none ∧
      (before (.boot .one) pins).i2cQueue = [] ∧
      (before (.boot .one) pins).run.schedule = [.boot .one]) ∧
    (unmarked active = true ∧ active.rx = none ∧ active.i2cQueue = [] ∧ active.run.schedule = [] ∧
      active.i2sActive = true) ∧
    (unmarked ready = true ∧ ready.rx = none ∧ ready.i2cQueue = [] ∧ ready.run.schedule = [] ∧
      ready.i2sActive = false) := by decide +kernel

/-- A refused state, a faulted state, and a step that answers a next state. -/
theorem witness_MarksStopTheRun : unmarked { active with refused := true } = false ∧
    unmarked { active with faults := [.busContention .rxm 0 2] } = false ∧
    step (before (.inject packetOn) active) = .next { active with run.inject := some packetOn } :=
  ⟨by decide +kernel, by decide +kernel, eq_next (by decide +kernel)⟩

/-- Both levels, with the other board not booted and with it booted in the other role. -/
theorem witness_BootGivesTheRoleOfTheLevel :
    (pins.role .one = none ∧ (pins.board .one).p06 = some .high ∧
      pins.role (otherBoard .one) ≠ some (if Level.high = .high then Role.master else .slave)) ∧
    (master.role .two = none ∧ (master.board .two).p06 = some .low ∧
      master.role (otherBoard .two) ≠ some (if Level.low = .high then Role.master else .slave)) := by
  decide +kernel

/-- A role clash of each kind (rows 4 and 5 of 2.2), a level not set, and a second boot. -/
theorem witness_BootStops :
    (State.role { master with board2 := { Board.reset with p06 := some .high } } .two = none ∧
      State.role { master with board2 := { Board.reset with p06 := some .high } } (otherBoard .two) =
        some (if Level.high = .high then Role.master else .slave)) ∧
    (State.role { pair with board1 := { Board.reset with p06 := some .low } } .one = none ∧
      State.role { pair with board1 := { Board.reset with p06 := some .low } } (otherBoard .one) =
        some (if Level.low = .high then Role.master else .slave)) ∧
    (State.reset.role .one = none ∧ (State.reset.board .one).p06 = none) ∧
    master.role .one = some .master := by decide +kernel

/-- The bus inactive and JP41 set, the bus inactive and JP41 not set, the bus active. -/
theorem witness_MasterPressStartsTheBus :
    (ready.role .one = some .master ∧ ready.ampInitIdx = 40 ∧ ready.i2sActive = false ∧
      ready.jumpersRouted = true) ∧
    (unrouted.role .one = some .master ∧ unrouted.ampInitIdx = 40 ∧
      { unrouted with i2sActive := false }.i2sActive = false ∧
      State.jumpersRouted { unrouted with i2sActive := false } = false) ∧
    (active.role .one = some .master ∧ active.ampInitIdx = 40 ∧ active.i2sActive = true) := by
  decide +kernel

/-- The two bytes, the inactive bus and the waiting packet. -/
theorem witness_SlavePressQueuesThePacket :
    (active.role .two = some .slave ∧ active.i2sActive = true ∧ active.txPending = none ∧
      active.swNext = 0xFF#8) ∧
    ({ active with swNext := 0x00#8 }.swNext = 0x00#8) ∧
    (ready.role .two = some .slave ∧ ready.i2sActive = false) ∧
    ((waiting 1).role .two = some .slave ∧ (waiting 1).i2sActive = true ∧
      (waiting 1).txPending ≠ none) := by decide +kernel

/-- A booted board; one not booted beside a booted one; none booted. -/
theorem witness_RoleChangeAfterBootIsRefused : active.role .two = some .slave ∧
    (alone.role .two = none ∧ alone.role (otherBoard .two) = some .master) ∧
    (pins.role .one = none ∧ pins.role .two = none) := by decide +kernel

theorem witness_SettingsAndPressRequirements : (pins.role .one = none ∧ pins.role .two = none) ∧
    master.role .two = none ∧ master.role .one = some .master ∧ master.ampInitIdx ≠ 40 ∧
    { master with ampInitIdx := 39 }.ampInitIdx ≠ 40 := by decide +kernel

/-- A frame without a slave, one that sends the waiting packet, one that keeps it, one with none. -/
theorem witness_FramePlacesEveryAgent :
    (frameReady alone ∧ alone.slaveBoard = none) ∧
    (frameReady (waiting 1) ∧ (waiting 1).slaveBoard ≠ none ∧
      (waiting 1).txPending = some ⟨packetOn, 1⟩ ∧ sendNow (some true) (waiting 1) = true ∧
      sendNow (some false) (waiting 1) = false) ∧
    (frameReady active ∧ active.slaveBoard ≠ none ∧ active.txPending = none) :=
  ⟨⟨⟨rfl, rfl, rfl, rfl, test_configured⟩, rfl⟩,
    ⟨waiting_frameReady 1, by decide +kernel, rfl, rfl, rfl⟩,
    ⟨active_frameReady, by decide +kernel, rfl⟩⟩

/-- An enabled frame answers a next state, whatever the amplifier's enable and the draws. -/
theorem frame_answers (note : Option Bool) {s : State} (h : frameReady s) :
    contention (allDrives note s) = none → eventStep (.frame note) s = .next (placed note s) :=
  fun hc => Laws.frameStep_ready h.1 h.2.1 h.2.2.1 h.2.2.2.2 hc

theorem waiting_frame (n : Nat) (note : Option Bool) :
    eventStep (.frame note) (waiting n) = .next (placed note (waiting n)) := by
  refine frame_answers note (waiting_frameReady n) ?_
  unfold allDrives ampDrives
  cases State.ampOutputEnabled (waiting n) <;> rfl

/-- A packet placed for the last time, one placed with more frames to come, and one that waits. -/
theorem witness_FrameChangesOnlyTheBus :
    (frameReady (waiting 1) ∧
      eventStep (.frame (some true)) (waiting 1) = .next (placed (some true) (waiting 1)) ∧
      (waiting 1).txPending = some ⟨packetOn, 1⟩ ∧ (waiting 1).slaveBoard ≠ none ∧
      sendNow (some true) (waiting 1) = true) ∧
    (frameReady (waiting 2) ∧
      eventStep (.frame (some true)) (waiting 2) = .next (placed (some true) (waiting 2)) ∧
      (waiting 2).txPending = some ⟨packetOn, 2⟩) ∧
    (eventStep (.frame (some false)) (waiting 1) = .next (placed (some false) (waiting 1)) ∧
      sendNow (some false) (waiting 1) = false) :=
  ⟨⟨waiting_frameReady 1, waiting_frame 1 _, rfl, by decide +kernel, rfl⟩,
    ⟨waiting_frameReady 2, waiting_frame 2 _, rfl⟩, ⟨waiting_frame 1 _, rfl⟩⟩

/-- An injected word; a packet sent and one kept under `NoNoise`; the same without it; no slave. -/
theorem witness_MasterReceivesThePlacedWord :
    (frameReady { waiting 1 with run.inject := some packetOff } ∧
      { waiting 1 with run.inject := some packetOff }.run.inject = some packetOff) ∧
    ((waiting 1).run.inject = none ∧ (waiting 1).run.noNoise = true ∧ (waiting 1).slaveBoard ≠ none ∧
      frameReady (waiting 1) ∧ (waiting 1).txPending = some ⟨packetOn, 1⟩ ∧
      eventStep (.frame (some true)) (waiting 1) = .next (placed (some true) (waiting 1)) ∧
      sendNow (some true) (waiting 1) = true ∧
      eventStep (.frame (some false)) (waiting 1) = .next (placed (some false) (waiting 1)) ∧
      sendNow (some false) (waiting 1) = false) ∧
    (frameReady active ∧ active.run.inject = none ∧ active.run.noNoise = false ∧
      active.slaveBoard ≠ none) ∧
    (frameReady alone ∧ alone.run.inject = none ∧ alone.slaveBoard = none) :=
  ⟨⟨⟨rfl, rfl, rfl, rfl, test_configured⟩, rfl⟩,
    ⟨rfl, rfl, by decide +kernel, waiting_frameReady 1, rfl, waiting_frame 1 _, rfl, waiting_frame 1 _, rfl⟩,
    ⟨active_frameReady, rfl, rfl, by decide +kernel⟩, ⟨rfl, rfl, rfl, rfl, test_configured⟩, rfl, rfl⟩

/-- Two devices on channel 2 of `RXM` (95_test_vectors.md 2.1), boards of distinct roles, two masters. -/
theorem witness_ContentionIsFoundAndExcluded :
    contention [⟨.rxm, 2, .slave, 0#32⟩, ⟨.rxm, 2, .amp, 0#32⟩] = some (.rxm, 2) ∧
    1 < (drivesOf [⟨.rxm, 7, .slave, 0#32⟩, ⟨.rxm, 7, .amp, 0#32⟩] .rxm 7).length ∧
    rolesDistinct active = true ∧ clash.i2sActive = true ∧ clash.jumpersRouted = true ∧ ampIsTable clash ∧
    clash.role .one = some .master ∧ clash.role .two = some .master :=
  ⟨by decide +kernel, by decide +kernel, rfl, rfl, rfl, test_configured, rfl, rfl⟩

/-- An inactive bus; no master; a jumper not set; the first register with another value, the first and the
last of those without one. -/
theorem witness_FramesThatStop : ready.i2sActive = false ∧
    (headless.i2sActive = true ∧ headless.masterBoard = none) ∧
    (unrouted.i2sActive = true ∧ unrouted.masterBoard.isSome = true ∧ unrouted.jumpersRouted = false) ∧
    (active.masterBoard.isSome = true ∧ active.jumpersRouted = true) ∧
    (⟨"THERMAL_WRN", 0x2020#16, 0x0A#8, true⟩ ∈ ampTable ∧
      Memory.read [(0x2020, 0x07#8)] 0x2020 = some 0x07#8 ∧ 0x07#8 ≠ 0x0A#8) ∧
    (⟨"PCM_MODE_CFG", 0x2040#16, 0xD9#8, false⟩ ∈ ampTable ∧ Memory.read [] 0x2040 = none) ∧
    (⟨"IV_DATA_EN", 0x20A7#16, 0x03#8, false⟩ ∈ ampTable ∧
      Memory.read (configured.take 10) 0x20A7 = none) := by
  decide +kernel

/-- A frame, from an active bus, whatever the draws. -/
theorem witness_StepKeepsTheInvariant :
    Inv (before (.pressSw2 .two) active) ∧ (∃ t, step (before (.pressSw2 .two) active) = .next t) ∧
    Inv (before (.frame none) active) ∧ (∃ t, step (before (.frame none) active) = .next t) := by
  refine ⟨before_inv _, ⟨_, rfl⟩, before_inv _, placed none active, ?_⟩
  refine frame_answers none active_frameReady ?_
  unfold allDrives ampDrives
  cases State.ampOutputEnabled active <;> rfl

theorem witness_StepKeepsTheMemoryForm : Memory.wf master.amp = true ∧ ∃ t, step master = .next t :=
  ⟨by decide +kernel, _, rfl⟩

/-- A step that leaves an active bus active, and the one that starts it. -/
theorem witness_ActiveBusHasAConfiguredAmplifier :
    (Inv (before (.pressSw2 .two) active) ∧
      ∃ t, step (before (.pressSw2 .two) active) = .next t ∧ t.i2sActive = true) ∧
    (Inv (before (.pressSw2 .one) ready) ∧
      ∃ t, step (before (.pressSw2 .one) ready) = .next t ∧ t.i2sActive = true) :=
  ⟨⟨before_inv _, _, rfl, rfl⟩, ready_inv, _, rfl, rfl⟩

theorem witness_SettingsStayAfterBoot : (∃ t, step (before (.pressSw2 .two) active) = .next t) ∧
    (before (.pressSw2 .two) active).role .one = some .master := ⟨⟨_, rfl⟩, rfl⟩

theorem witness_RolesNeverChange : (∃ t, step (before (.inject packetOn) active) = .next t) ∧
    (before (.inject packetOn) active).role .two = some .slave := ⟨⟨_, rfl⟩, rfl⟩

theorem witness_ActiveBusStaysActive : Inv (before (.inject packetOn) active) ∧
    (∃ t, step (before (.inject packetOn) active) = .next t) ∧
    (before (.inject packetOn) active).i2sActive = true := ⟨before_inv _, ⟨_, rfl⟩, rfl⟩

/-- LED_RX changes from no value to on, and from no value to off. -/
theorem witness_LedRxFollowsOnlyThePackets :
    (∃ t, step (received packetOn) = .next t ∧
      t.led .one .ledRx ≠ (received packetOn).led .one .ledRx) ∧
    (∃ t, step (received packetOff) = .next t ∧
      t.led .one .ledRx ≠ (received packetOff).led .one .ledRx) :=
  ⟨⟨{ active.setLed .one .ledRx .on with frameNo := 1 }, eq_next (by decide +kernel), by decide +kernel⟩,
    ⟨{ active.setLed .one .ledRx .off with frameNo := 1 }, eq_next (by decide +kernel), by decide +kernel⟩⟩

/-- A slave's boot changes its blue LED; the master's Switch 2 its green LED. -/
theorem witness_NamedLedsChangeOnlyAtBootAndStart :
    (∃ t, step (before (.boot .two) pins) = .next t ∧
      t.led .two .blue ≠ (before (.boot .two) pins).led .two .blue) ∧
    (∃ t, step (before (.pressSw2 .one) ready) = .next t ∧
      t.led .one .green ≠ (before (.pressSw2 .one) ready).led .one .green) :=
  ⟨⟨_, rfl, by decide +kernel⟩, ⟨_, rfl, fun h => by
    have h' : (some LedState.on : Option LedState) = none := h
    simp at h'⟩⟩

theorem witness_LinesOnlyGrow : (∃ t, step ready = .next t) ∧
    ∃ t, step (before (.frame none) active) = .next t :=
  ⟨⟨_, rfl⟩, witness_StepKeepsTheInvariant.2.2.2⟩

/-- Two states that differ in every output. -/
theorem witness_OutputsAreNeverRead :
    withoutOutputs (received packetOn) = withoutOutputs (received packetOn |>.setLed .one .green .off) ∧
    received packetOn ≠ (received packetOn |>.setLed .one .green .off) ∧
    ∃ t, step (received packetOn) = .next t :=
  ⟨by decide +kernel, by decide +kernel, { active.setLed .one .ledRx .on with frameNo := 1 },
    eq_next (by decide +kernel)⟩

/-- The lowest and the highest address, with a value and without one, and an unlisted address. -/
theorem witness_ObservationReadsTheRegister : writeReady master ∧
    ((∃ r ∈ ampTable, r.addr = 0x2020#16) ∧ Memory.read State.reset.amp 0x2020 = some 0x0A#8) ∧
    ((∃ r ∈ ampTable, r.addr = 0x20A7#16) ∧ Memory.read State.reset.amp 0x20A7 = none) ∧
    (∃ r ∈ ampTable, r.addr = 0x20EF#16) ∧ (∀ r ∈ ampTable, r.addr ≠ 0x2043#16) :=
  ⟨⟨⟨.one, rfl⟩, rfl⟩, by decide +kernel, by decide +kernel, by decide +kernel, by decide +kernel⟩

/-- A step that ends in contention. -/
theorem witness_NoStepEndsInReadOfUnspecified :
    ∃ m, step (before (.frame none) clash) = .fault (.busContention .txm 0 0 m) := by
  have hc : contention (allDrives none { clash with run.schedule := [] }) = some (.txm, 0) := by
    unfold allDrives ampDrives
    cases State.ampOutputEnabled { clash with run.schedule := [] } <;> rfl
  have ht : State.ampIsTable { clash with run.schedule := [] } = true := by decide +kernel
  show ∃ m, frameStep none { clash with run.schedule := [] } = _
  unfold frameStep
  rw [ht, hc]
  exact ⟨_, rfl⟩

theorem witness_TheScheduleIsOnlyTaken : (∃ t, eventStep (.pressSw2 .two) active = .next t) ∧
    (∃ t, eventStep (.frame none) active = .next t) ∧ ∃ t, exec .ampwBrwnout master = .next t :=
  ⟨⟨_, rfl⟩, ⟨_, frame_answers none active_frameReady (by
    unfold allDrives ampDrives
    cases State.ampOutputEnabled active <;> rfl)⟩, ⟨_, rfl⟩⟩

/-- A run of two moves: board one is set to be the master, and boots. -/
theorem witness_EveryRunMeetsTheInvariant : ∃ t, t.role .one = some .master ∧
    Host.Core.run core 2 (start ⟨[.setP06 .one .high, .boot .one], none, false, 0⟩) = .next t :=
  ⟨_, rfl, rfl⟩

end Sys2Proof.Tests
end

section
/-!
The observation of a register (00_scope.md R11): `memRead` by whether the address is one of the 40.
-/

namespace Sys2Proof.Proofs

open Sys2Proof Sys2Proof.Machine Sys2Proof.Safety Sys2Proof.Claims Sys2Proof.Laws

variable {s : State} {a : RegAddr} {v : Byte}

theorem memRead_listed (ha : ampListed a.toNat = true) :
    memRead s a = some ((Memory.read s.amp a.toNat).getD (Config.ampUnspecified a)) :=
  if_pos ha

theorem memRead_unlisted (ha : ¬ ampListed a.toNat = true) : memRead s a = none :=
  if_neg ha

/-- A register that holds a value is observed to hold it. -/
theorem memRead_of_read (ha : ampListed a.toNat = true) (h : Memory.read s.amp a.toNat = some v) :
    memRead s a = some v := by
  rw [memRead_listed ha, h, Option.getD_some]

/-- A register write at the I2C port stores the word's value at the word's address (R165). -/
theorem runAmpWord_append (hs : writeReady s) (ha : ampListed a.toNat = true) :
    runAmpWord (a ++ v) s = .next (s.ampStored a v) := by
  rw [runAmpWord_eq, ampAddr_append, ampValue_append]
  exact ampWrite_ready (masterBoard_isSome_iff.2 hs.1) hs.2 ha

/-- Settles O57: each clause is the listed or the unlisted case of `memRead`. -/
theorem observationReadsTheRegister : Obligations.ObservationReadsTheRegister := by
  refine ⟨fun s a v ha h => memRead_of_read (ampListed_iff.2 ha) h,
    fun s a ha => ⟨_, memRead_listed (ampListed_iff.2 ha)⟩, fun s a ha => ?_,
    fun s a v hs ha => ⟨_, runAmpWord_append hs (ampListed_iff.2 ha), ?_⟩⟩
  · refine memRead_unlisted fun h => ?_
    obtain ⟨r, hr, hra⟩ := ampListed_iff.1 h
    exact ha r hr hra
  · exact memRead_of_read (ampListed_iff.2 ha) (read_write_self _ _ _)

end Sys2Proof.Proofs
end

section
/-!
A step with nothing received and no register write to do (00_scope.md R14).
-/

namespace Sys2Proof.Proofs

open Sys2Proof Sys2Proof.Machine Sys2Proof.Safety Sys2Proof.Laws

variable {s : State}

theorem unmarked_iff : unmarked s = true ↔ s.faults = [] ∧ s.refused = false := by
  simp [unmarked]

section Idle

variable (hu : unmarked s = true) (hx : s.rx = none) (hq : s.i2cQueue = [])
include hu hx hq

/-- With nothing received and nothing queued, an event of the schedule is the step. -/
theorem step_of_event {e : Event} {es : List Event} (hs : s.run.schedule = e :: es) :
    step s = eventStep e { s with run.schedule := es } := by
  obtain ⟨hf, hr⟩ := unmarked_iff.1 hu
  simp [step_unmarked hf hr, stepUnmarked, hx, hq, hs]

/-- With nothing received, queued or scheduled, the machine goes on by itself. -/
theorem step_of_no_event (hs : s.run.schedule = []) : step s = idleStep s := by
  obtain ⟨hf, hr⟩ := unmarked_iff.1 hu
  simp [step_unmarked hf hr, stepUnmarked, hx, hq, hs]

end Idle

/-- Settles O27: the schedule's head, else what the machine does by itself on either bus state. -/
theorem stepTakesTheNextEvent : Obligations.StepTakesTheNextEvent := by
  intro s hu hx hq
  refine ⟨fun e es hs => step_of_event hu hx hq hs, fun hs ha => ?_, fun hs ha => ?_⟩
  · simp [step_of_no_event hu hx hq hs, idleStep, ha, eventStep]
  · simp [step_of_no_event hu hx hq hs, idleStep, ha]

end Sys2Proof.Proofs
end

section
/-!
No event and no unit reads the schedule of user events or changes it (00_scope.md R15).
-/

namespace Sys2Proof.Proofs

open Sys2Proof Sys2Proof.Machine Sys2Proof.Laws

/-- The state in a run with another schedule. -/
def withSchedule (s : State) (es : List Event) : State := { s with run.schedule := es }

/-- `f` answers alike under every schedule and hands on the schedule it was given. -/
def BlindToSchedule (f : State → Result) : Prop :=
  ∀ es s t, f s = .next t →
    f (withSchedule s es) = .next (withSchedule t es) ∧ t.run.schedule = s.run.schedule

section Stops

variable (r : Requirement) (why : State → Refusal)

theorem notEnabled_blind : BlindToSchedule fun _ => notEnabled r := by
  intro es s t h
  cases h

theorem refuse_blind : BlindToSchedule (refuse why) := by
  intro es s t h
  cases h

end Stops

/-- An update that commutes with a change of the schedule. -/
theorem next_blind {f : State → State} (hf : ∀ s es, f (withSchedule s es) = withSchedule (f s) es)
    (hr : ∀ s, (f s).run.schedule = s.run.schedule) : BlindToSchedule fun s => .next (f s) := by
  intro es s t h
  cases h
  exact ⟨congrArg _ (hf s es), hr s⟩

/-- A choice whose condition does not look at the schedule. -/
theorem ite_blind {c : State → Prop} [∀ s, Decidable (c s)] {f g : State → Result}
    (hc : ∀ s es, c (withSchedule s es) = c s) (hf : BlindToSchedule f) (hg : BlindToSchedule g) :
    BlindToSchedule fun s => if c s then f s else g s := by
  intro es s t h
  beta_reduce at h ⊢
  simp only [hc]
  split_ifs at h ⊢
  · exact hf es s t h
  · exact hg es s t h

theorem ampWrite_blind (a : RegAddr) (v : Byte) : BlindToSchedule (ampWrite a v) :=
  ite_blind (fun _ _ => rfl) (notEnabled_blind _) <|
    ite_blind (fun _ _ => rfl) (notEnabled_blind _) <|
      ite_blind (fun _ _ => rfl) (next_blind (fun _ _ => rfl) fun _ => rfl) (refuse_blind _)

/-! ### The user's events -/

theorem setP06_blind (b : BoardId) (l : Level) : BlindToSchedule (setP06 b l) :=
  ite_blind (fun _ _ => rfl) (refuse_blind _) <|
    ite_blind (fun _ _ => rfl) (notEnabled_blind _) <|
      next_blind (fun _ _ => by cases b <;> rfl) fun _ => by simp

theorem setJp41_blind (b : BoardId) (p : Jumper) : BlindToSchedule (setJp41 b p) :=
  ite_blind (fun _ _ => rfl) (notEnabled_blind _) <|
    next_blind (fun _ _ => by cases b <;> rfl) fun _ => by simp

/-- A board whose P0_6 is Low boots as the slave (R120). -/
theorem boot_low {s : State} {b : BoardId} (hr : s.role b = none) (hp : (s.board b).p06 = some .low)
    (ho : s.role (otherBoard b) ≠ some .slave) : boot b s = .next (bootSlave b s) := by
  simp [boot, hr, hp, roleOf, ho]

/-- A board whose P0_6 is High boots as the master (R120). -/
theorem boot_high {s : State} {b : BoardId} (hr : s.role b = none) (hp : (s.board b).p06 = some .high)
    (ho : s.role (otherBoard b) ≠ some .master) : boot b s = .next (bootMaster b s) := by
  simp [boot, hr, hp, roleOf, ho]

theorem boot_blind (b : BoardId) : BlindToSchedule (boot b) := by
  intro es s t h
  obtain ⟨hr, l, hl, ho, ⟨rfl, rfl⟩ | ⟨rfl, rfl⟩⟩ := boot_next h
  · refine ⟨(boot_low (s := withSchedule s es) hr hl ho).trans ?_, ?_⟩ <;> cases b <;> rfl
  · refine ⟨(boot_high (s := withSchedule s es) hr hl ho).trans ?_, ?_⟩ <;> cases b <;> rfl

theorem pressMaster_blind (b : BoardId) : BlindToSchedule (pressMaster b) :=
  ite_blind (fun _ _ => rfl) (notEnabled_blind _) <|
    ite_blind (fun _ _ => rfl) (refuse_blind _) <|
      ite_blind (fun _ _ => rfl) (notEnabled_blind _) <|
        next_blind (fun _ _ => by cases b <;> rfl) fun _ => by simp

theorem pressSlave_blind : BlindToSchedule pressSlave :=
  ite_blind (fun _ _ => rfl) (refuse_blind _) <|
    ite_blind (fun _ _ => rfl) (refuse_blind _) <| next_blind (fun _ _ => rfl) fun _ => rfl

theorem drawP05_withSchedule (b : BoardId) (s : State) (es : List Event) :
    drawP05 b (withSchedule s es) = withSchedule (drawP05 b s) es := by
  cases b <;> rfl

@[simp] theorem drawP05_schedule (b : BoardId) (s : State) :
    (drawP05 b s).run.schedule = s.run.schedule := by
  cases b <;> rfl

theorem pressSw2_of_master {s : State} {b : BoardId} (hr : s.role b = some .master) :
    pressSw2 b s = pressMaster b (drawP05 b s) := by
  simp [pressSw2, hr]

theorem pressSw2_of_slave {s : State} {b : BoardId} (hr : s.role b = some .slave) :
    pressSw2 b s = pressSlave (drawP05 b s) := by
  simp [pressSw2, hr]

theorem pressSw2_blind (b : BoardId) : BlindToSchedule (pressSw2 b) := by
  intro es s t h
  obtain ⟨hr, h⟩ | ⟨hr, h⟩ := pressSw2_next h
  · rw [pressSw2_of_master (s := withSchedule s es) hr, drawP05_withSchedule, ← drawP05_schedule b s]
    exact pressMaster_blind b es _ t h
  · rw [pressSw2_of_slave (s := withSchedule s es) hr, drawP05_withSchedule, ← drawP05_schedule b s]
    exact pressSlave_blind es _ t h

theorem frameStep_blind (note : Option Bool) : BlindToSchedule (frameStep note) := by
  intro es s t h
  obtain ⟨ha, hm, hj, ht, hc, rfl⟩ := frameStep_next h
  exact ⟨frameStep_ready (s := withSchedule s es) ha hm hj ht hc, rfl⟩

theorem eventStep_blind (e : Event) : BlindToSchedule (eventStep e) :=
  match e with
  | .setP06 b l => setP06_blind b l
  | .setJp41 b p => setJp41_blind b p
  | .boot b => boot_blind b
  | .pressSw2 b => pressSw2_blind b
  | .frame note => frameStep_blind note
  | .inject _ => next_blind (fun _ _ => rfl) fun _ => rfl

/-! ### The units -/

theorem setMasterLed_blind (v : LedState) : BlindToSchedule (setMasterLed v) := by
  intro es s t h
  obtain ⟨b, hb, rfl⟩ := setMasterLed_next h
  have hb' : (withSchedule s es).masterBoard = some b := hb
  refine ⟨?_, by simp⟩
  rw [setMasterLed, hb']
  cases b <;> rfl

theorem execPktSrcGpio_blind (length : Byte) (data : PktData) (crc : Byte) :
    BlindToSchedule (execPktSrcGpio length data crc) :=
  ite_blind (fun _ _ => rfl)
    (ite_blind (fun _ _ => rfl)
      (ite_blind (fun _ _ => rfl) (setMasterLed_blind _) <|
        ite_blind (fun _ _ => rfl) (setMasterLed_blind _) (refuse_blind _))
      (refuse_blind _))
    (next_blind (fun _ _ => rfl) fun _ => rfl)

theorem exec_blind (i : Instr) : BlindToSchedule (exec i) := by
  cases i with
  | pktSrcGpio length data crc => exact execPktSrcGpio_blind length data crc
  | _ => exact ampWrite_blind _ _

/-- Settles O59: every event and every unit is blind to the schedule. -/
theorem theScheduleIsOnlyTaken : Obligations.TheScheduleIsOnlyTaken :=
  ⟨fun e => eventStep_blind e, fun i => exec_blind i⟩

end Sys2Proof.Proofs
end

section
/-!
The parts of the invariant (`Safety.Inv`) as propositions, and what a change of one board does to them.
-/

namespace Sys2Proof.Proofs

open Sys2Proof Sys2Proof.Machine Sys2Proof.Safety Sys2Proof.Laws

variable {s : State} {b c : BoardId} {x : Board}

/-! ### The parts as propositions -/

theorem rolesDistinct_iff : rolesDistinct s = true ↔
    ∀ b r, s.role b = some r → s.role (otherBoard b) ≠ some r := by
  simp only [rolesDistinct, Bool.or_eq_true, Option.isNone_iff_eq_none, bne_iff_ne]
  constructor
  · intro h b r hb ho
    cases b <;> simp_all [otherBoard]
  · intro h
    cases h1 : s.role .one with
    | none => exact .inl rfl
    | some r => exact .inr (Ne.symm (h .one r h1))

theorem roleOfPin_iff : roleOfPin s b = true ↔
    ∀ r, s.role b = some r → (s.board b).p06.map roleOf = some r := by
  simp only [roleOfPin, Bool.or_eq_true, Option.isNone_iff_eq_none, beq_iff_eq]
  cases s.role b <;> simp [eq_comm]

theorem slaveBlueOn_iff : slaveBlueOn s b = true ↔
    (s.role b = some .slave → s.led b .blue = some .on) := by
  simp [slaveBlueOn, imp_iff_not_or]

theorem masterProgress_of_none (h : s.masterBoard = none) : masterProgress s = true ↔
    s.i2sActive = false ∧ s.ampInitIdx = 0 ∧ s.i2cQueue = [] ∧ s.amp = [] := by
  simp [masterProgress, h, and_assoc]

theorem masterProgress_of_some (h : s.masterBoard = some b) : masterProgress s = true ↔
    s.i2cReady = true ∧ s.ampInitIdx ≤ Config.ampRegs ∧ s.i2cQueue = ampWords.drop s.ampInitIdx := by
  simp [masterProgress, h, and_assoc]

theorem ampWritten_iff : ampWritten s = true ↔
    ∀ r ∈ ampTable.take s.ampInitIdx, Memory.read s.amp r.addr.toNat = some r.value := by
  simp [ampWritten]

theorem activeConfigured_iff : activeConfigured s = true ↔ (s.i2sActive = true →
    s.ampInitIdx = Config.ampRegs ∧ ∃ b, s.masterBoard = some b ∧ s.led b .green = some .on) := by
  cases h : s.masterBoard <;> simp [activeConfigured, h, imp_iff_not_or]

theorem inactiveQuiet_iff : inactiveQuiet s = true ↔ (s.i2sActive = false →
    s.history = [] ∧ s.frameNo = 0 ∧ s.txPending = none ∧ s.rx = none) := by
  simp [inactiveQuiet, imp_iff_not_or, and_assoc]

theorem framesCounted_iff : framesCounted s = true ↔
    s.history.length = s.frameNo + if s.rx.isSome then 1 else 0 := by
  simp [framesCounted]

theorem slaveSends_iff : slaveSends s = true ↔ (s.swNext = 0xFF#8 ∨ s.swNext = 0x00#8) ∧
    ∀ p, s.txPending = some p →
      (p.word = packetOn ∨ p.word = packetOff) ∧ 1 ≤ p.left ∧ s.slaveBoard.isSome = true := by
  cases h : s.txPending <;> simp [slaveSends, h, and_assoc]

/-- A reception or a waiting packet is only there while the bus is active. -/
theorem active_of_rx {w : PktWord} (hi : Inv s) (hw : s.rx = some w) : s.i2sActive = true := by
  by_contra ha
  obtain ⟨-, -, -, hx⟩ := inactiveQuiet_iff.1 hi.inactiveQuiet (by simpa using ha)
  simp [hw] at hx

/-! ### Roles and LEDs after a board is replaced -/

/-- A board that keeps an LED leaves that LED of every board alone. -/
theorem setBoard_led_eq {n : LedName} (hn : x.led n = s.led b n) (c : BoardId) :
    (s.setBoard b x).led c n = s.led c n := by
  by_cases h : c = b
  · subst h; simpa [State.led] using hn
  · simp [State.led, setBoard_board_other _ _ _ _ h]

@[simp] theorem setBoard_role_self : (s.setBoard b x).role b = x.role := by
  simp [State.role]

theorem setBoard_role_other (h : c ≠ b) : (s.setBoard b x).role c = s.role c := by
  simp [State.role, setBoard_board_other _ _ _ _ h]

/-- A board that keeps its role leaves every role alone. -/
theorem setBoard_role_eq (hr : x.role = s.role b) (c : BoardId) : (s.setBoard b x).role c = s.role c := by
  by_cases h : c = b
  · subst h; simpa using hr
  · exact setBoard_role_other h

@[simp] theorem otherBoard_ne : otherBoard b ≠ b := by cases b <;> simp [otherBoard]

theorem eq_otherBoard (h : c ≠ b) : c = otherBoard b := by
  cases b <;> cases c <;> simp_all [otherBoard]

@[simp] theorem otherBoard_otherBoard : otherBoard (otherBoard b) = b := by cases b <;> rfl

/-- A board with a role its counterpart has not got keeps the roles distinct. -/
theorem rolesDistinct_setBoard {r : Role} (hx : x.role = some r) (ho : s.role (otherBoard b) ≠ some r) :
    rolesDistinct (s.setBoard b x) = true := by
  rw [rolesDistinct_iff]
  intro c q hc
  by_cases h : c = b
  · subst h
    rw [setBoard_role_self, hx] at hc
    rw [setBoard_role_other otherBoard_ne, ← hc]
    exact ho
  · obtain rfl := eq_otherBoard h
    rw [setBoard_role_other h] at hc
    rw [otherBoard_otherBoard, setBoard_role_self, hx, ← hc]
    exact Ne.symm ho

theorem roleOfPin_setBoard (hi : ∀ c, roleOfPin s c = true) (hx : x.role = x.p06.map roleOf)
    (c : BoardId) : roleOfPin (s.setBoard b x) c = true := by
  by_cases h : c = b
  · subst h
    rw [roleOfPin_iff, setBoard_role_self, setBoard_board_self, hx]
    exact fun _ => id
  · rw [roleOfPin_iff, setBoard_role_other h, setBoard_board_other _ _ _ _ h]
    exact roleOfPin_iff.1 (hi c)

theorem slaveBlueOn_setBoard (hi : ∀ c, slaveBlueOn s c = true)
    (hx : x.role = some .slave → x.blue = some .on) (c : BoardId) :
    slaveBlueOn (s.setBoard b x) c = true := by
  by_cases h : c = b
  · subst h
    rw [slaveBlueOn_iff, setBoard_role_self, State.led, setBoard_board_self]
    exact hx
  · rw [slaveBlueOn_iff, setBoard_role_other h, State.led, setBoard_board_other _ _ _ _ h]
    exact slaveBlueOn_iff.1 (hi c)

/-- A board that neither had nor gets a role leaves the boards of that role as they were. -/
theorem setBoard_boardsWith {r : Role} (hx : x.role ≠ some r) (hb : s.role b ≠ some r) :
    (s.setBoard b x).boardsWith r = s.boardsWith r := by
  refine List.filter_congr fun c _ => ?_
  by_cases h : c = b
  · subst h; simp [hx, hb]
  · rw [setBoard_role_other h]

/-- With distinct roles the master is the one board of that role. -/
theorem masterBoard_of_role (hd : rolesDistinct s = true) (hb : s.role b = some .master) :
    s.masterBoard = some b := by
  obtain ⟨c, hc⟩ := Option.isSome_iff_exists.1 (masterBoard_isSome_iff.2 ⟨b, hb⟩)
  by_cases h : b = c
  · rw [hc, h]
  · rw [eq_otherBoard h] at hb
    exact absurd hb (rolesDistinct_iff.1 hd c _ (masterBoard_eq_some hc))

theorem slaveBoard_isSome_iff : s.slaveBoard.isSome = true ↔ ∃ b, s.role b = some .slave := by
  simp only [State.slaveBoard, State.boardsWith, List.head?_filter, List.find?_isSome]
  refine ⟨fun ⟨b, _, hb⟩ => ⟨b, by simpa using hb⟩, fun ⟨b, hb⟩ => ⟨b, ?_, by simpa using hb⟩⟩
  cases b <;> simp

end Sys2Proof.Proofs
end

section
/-!
Each effect of a step (`Laws.Effect`) keeps the invariant.
-/

namespace Sys2Proof.Proofs

open Sys2Proof Sys2Proof.Machine Sys2Proof.Safety Sys2Proof.Laws

variable {s : State} {b : BoardId} {x : Board}

/-! ### What the invariant does not read -/

/-- The invariant says nothing of what the run is given. -/
theorem inv_run (hi : Inv s) (r : RunInputs) : Inv { s with run := r } := { hi with }

/-- Of a board the invariant reads the role, the blue LED, P0_6 where it has booted, and the green LED while
the bus is active. -/
theorem inv_setBoard (hi : Inv s) (hr : x.role = s.role b)
    (hp : s.role b = none ∨ x.p06 = (s.board b).p06) (hb : x.blue = (s.board b).blue)
    (hg : s.i2sActive = true → x.green = (s.board b).green) : Inv (s.setBoard b x) := by
  have hrole := setBoard_role_eq hr
  have hblue := setBoard_led_eq (n := .blue) hb
  exact {
    unmarked := by simpa [unmarked] using hi.unmarked
    rolesDistinct := by simpa [rolesDistinct, hrole] using hi.rolesDistinct
    roleOfPin := fun c => by
      have hc := roleOfPin_iff.1 (hi.roleOfPin c)
      rw [roleOfPin_iff, hrole]
      by_cases h : c = b
      · subst h
        intro r h
        rw [setBoard_board_self, hp.resolve_left (by simp [h])]
        exact hc r h
      · rwa [setBoard_board_other _ _ _ _ h]
    slaveBlueOn := fun c => by
      simpa [slaveBlueOn, hrole, hblue] using hi.slaveBlueOn c
    ampWf := by simpa using hi.ampWf
    masterProgress := by simpa [masterProgress, masterBoard_congr hrole] using hi.masterProgress
    ampWritten := by simpa [ampWritten] using hi.ampWritten
    activeConfigured := activeConfigured_iff.2 fun ha => by
      have ha' : s.i2sActive = true := by simpa using ha
      have hgreen := setBoard_led_eq (n := .green) (hg ha')
      simpa [masterBoard_congr hrole, hgreen] using activeConfigured_iff.1 hi.activeConfigured ha'
    inactiveQuiet := by simpa [inactiveQuiet] using hi.inactiveQuiet
    framesCounted := by simpa [framesCounted] using hi.framesCounted
    slaveSends := by simpa [slaveSends, slaveBoard_congr hrole] using hi.slaveSends
    historyAllocated := by simpa [historyAllocated] using hi.historyAllocated }

theorem inv_drawP05 (hi : Inv s) (b : BoardId) : Inv (drawP05 b s) :=
  inv_run (inv_setBoard hi (b := b) (x := { s.board b with p05 := (_ : Level) }) rfl (.inr rfl) rfl
    fun _ => rfl) _

theorem inv_setLedRx (hi : Inv s) (b : BoardId) (v : LedState) : Inv (s.setLed b .ledRx v) :=
  inv_setBoard hi rfl (.inr rfl) rfl fun _ => rfl

theorem inv_setGreenOn (hi : Inv s) (b : BoardId) (ha : s.i2sActive = false) :
    Inv (s.setLed b .green .on) :=
  inv_setBoard hi rfl (.inr rfl) rfl fun h => by simp [ha] at h

theorem inv_setP06 (hi : Inv s) (hr : s.role b = none) (l : Level) :
    Inv (s.setBoard b { s.board b with p06 := some l }) :=
  inv_setBoard hi rfl (.inl hr) rfl fun _ => rfl

theorem inv_setJp41 (hi : Inv s) (b : BoardId) (p : Jumper) :
    Inv (s.setBoard b { s.board b with jp41 := p }) :=
  inv_setBoard hi rfl (.inr rfl) rfl fun _ => rfl

/-! ### The end of a frame -/

/-- The frame in progress ends: what was received becomes a completed frame (R33, R35). -/
theorem inv_endFrame {w : PktWord} (hi : Inv s) (hw : s.rx = some w) :
    Inv { s with rx := none, frameNo := s.frameNo + 1 } :=
  { hi with
    inactiveQuiet := inactiveQuiet_iff.2 fun ha => by
      have : s.i2sActive = false := ha
      simp [active_of_rx hi hw] at this
    framesCounted := framesCounted_iff.2 (by simpa [hw] using framesCounted_iff.1 hi.framesCounted) }

/-! ### The register write of `AmpInit` -/

/-- A write that is still to do is the one of the next row, and a master is there to do it (R168). -/
theorem next_write {w : AmpWord} {ws : List AmpWord} (hi : Inv s) (hq : s.i2cQueue = w :: ws) :
    ∃ b r, s.masterBoard = some b ∧ s.ampInitIdx < Config.ampRegs ∧ ampTable[s.ampInitIdx]? = some r ∧
      w = r.word ∧ ws = ampWords.drop (s.ampInitIdx + 1) := by
  cases hm : s.masterBoard with
  | none =>
    obtain ⟨-, -, hq', -⟩ := (masterProgress_of_none hm).1 hi.masterProgress
    simp [hq] at hq'
  | some b =>
    obtain ⟨-, -, hd⟩ := (masterProgress_of_some hm).1 hi.masterProgress
    have hlt : s.ampInitIdx < ampWords.length := by
      by_contra h
      simp [hq, List.drop_eq_nil_of_le (Nat.not_lt.1 h)] at hd
    rw [hq, List.drop_eq_getElem_cons hlt, List.cons.injEq] at hd
    obtain ⟨hw, hws⟩ := hd
    have hlt' : s.ampInitIdx < ampTable.length := hlt
    exact ⟨b, ampTable[s.ampInitIdx], rfl, hlt, List.getElem?_eq_getElem hlt',
      by simpa [ampWords] using hw, hws⟩

/-- Rows with one address are one row, so writing a row keeps every row's value where it stands. -/
theorem read_write_row {m : Memory} {q r : AmpRow} (hq : q ∈ ampTable) (hr : r ∈ ampTable)
    (h : q = r ∨ Memory.read m q.addr.toNat = some q.value) :
    Memory.read (Memory.write m r.addr.toNat r.value) q.addr.toNat = some q.value := by
  by_cases ha : q.addr.toNat = r.addr.toNat
  · obtain rfl := List.inj_on_of_nodup_map ampTable_nodup hq hr ha
    exact read_write_self _ _ _
  · rw [read_write_other _ _ ha]
    exact h.resolve_left fun e => ha (by rw [e])

/-- The next write of `AmpInit` extends the written part of the table by its row (R32, R168). -/
theorem inv_write {w : AmpWord} {ws : List AmpWord} (hi : Inv s) (hq : s.i2cQueue = w :: ws)
    (hl : ampListed (ampAddr w).toNat = true) :
    Inv (State.ampStored { s with i2cQueue := ws } (ampAddr w) (ampValue w)) := by
  obtain ⟨b, r, hm, hlt, hr, rfl, rfl⟩ := next_write hi hq
  obtain ⟨hready, -, -⟩ := (masterProgress_of_some hm).1 hi.masterProgress
  have hidx : min Config.ampRegs (s.ampInitIdx + 1) = s.ampInitIdx + 1 := Nat.min_eq_right hlt
  have hinactive : s.i2sActive = false := by
    by_contra ha
    exact hlt.ne (activeConfigured_iff.1 hi.activeConfigured (by simpa using ha)).1
  have hm' : (State.ampStored { s with i2cQueue := ampWords.drop (s.ampInitIdx + 1) }
    (ampAddr r.word) (ampValue r.word)).masterBoard = some b := hm
  exact { hi with
    ampWf := write_wf _ hl hi.ampWf
    masterProgress := (masterProgress_of_some hm').2 ⟨hready, by simp [hlt], by simp [hidx]⟩
    ampWritten := ampWritten_iff.2 fun q hq => by
      simp only [ampStored_ampInitIdx, hidx, List.take_add_one, hr, List.mem_append, Option.toList_some,
        List.mem_singleton] at hq
      simp only [ampStored_amp, AmpRow.word, ampAddr_append, ampValue_append]
      refine read_write_row ?_ (List.mem_of_getElem? hr)
        (hq.symm.imp_right (ampWritten_iff.1 hi.ampWritten q))
      rcases hq with hq | rfl
      · exact List.mem_of_mem_take hq
      · exact List.mem_of_getElem? hr
    activeConfigured := activeConfigured_iff.2 fun ha => by simp [hinactive] at ha }

/-! ### Boot -/

/-- The slave's boot takes no part of the master's (R120, R121). -/
theorem inv_bootSlave (hi : Inv s) (hr : s.role b = none) (hp : (s.board b).p06 = some .low)
    (ho : s.role (otherBoard b) ≠ some .slave) : Inv (bootSlave b s) := by
  have hm : (bootSlave b s).masterBoard = s.masterBoard :=
    congrArg List.head? (setBoard_boardsWith (by simp) (by simp [hr]))
  have hgreen : ∀ c, (bootSlave b s).led c .green = s.led c .green := by
    intro c; cases b <;> cases c <;> rfl
  exact {
    unmarked := by simpa [unmarked, bootSlave] using hi.unmarked
    rolesDistinct := rolesDistinct_setBoard rfl ho
    roleOfPin := roleOfPin_setBoard hi.roleOfPin (by simp [hp, roleOf])
    slaveBlueOn := slaveBlueOn_setBoard hi.slaveBlueOn fun _ => rfl
    ampWf := by simpa [bootSlave] using hi.ampWf
    masterProgress := by
      simp only [masterProgress, hm]
      simpa [masterProgress, bootSlave] using hi.masterProgress
    ampWritten := by simpa [ampWritten, bootSlave] using hi.ampWritten
    activeConfigured := by
      simp only [activeConfigured_iff, hm, hgreen]
      simpa [bootSlave] using activeConfigured_iff.1 hi.activeConfigured
    inactiveQuiet := inactiveQuiet_iff.2 fun ha => by
      obtain ⟨hh, hn, -, hx⟩ := inactiveQuiet_iff.1 hi.inactiveQuiet (by simpa [bootSlave] using ha)
      simp [bootSlave, hh, hn, hx]
    framesCounted := by simpa [framesCounted, bootSlave] using hi.framesCounted
    slaveSends := slaveSends_iff.2 ⟨.inl rfl, fun p hp => by cases hp⟩
    historyAllocated := by simpa [historyAllocated, bootSlave] using hi.historyAllocated }

/-- The master's boot finds nothing of the master's done, and leaves the 40 writes to do (R120, R168). -/
theorem inv_bootMaster (hi : Inv s) (hr : s.role b = none) (hp : (s.board b).p06 = some .high)
    (ho : s.role (otherBoard b) ≠ some .master) : Inv (bootMaster b s) := by
  have hnone : s.masterBoard = none := masterBoard_eq_none.2 fun c hc => by
    by_cases h : c = b
    · simp [h, hr] at hc
    · exact ho (eq_otherBoard h ▸ hc)
  obtain ⟨ha, -, -, -⟩ := (masterProgress_of_none hnone).1 hi.masterProgress
  obtain ⟨hh, hn, ht, hx⟩ := inactiveQuiet_iff.1 hi.inactiveQuiet ha
  have hd : rolesDistinct (bootMaster b s) = true := rolesDistinct_setBoard rfl ho
  have hm : (bootMaster b s).masterBoard = some b :=
    masterBoard_of_role hd (setBoard_role_self (x := { s.board b with role := some .master }))
  exact {
    unmarked := by simpa [unmarked, bootMaster] using hi.unmarked
    rolesDistinct := hd
    roleOfPin := roleOfPin_setBoard hi.roleOfPin (by simp [hp, roleOf])
    slaveBlueOn := slaveBlueOn_setBoard hi.slaveBlueOn fun h => by cases h
    ampWf := by simpa [bootMaster] using hi.ampWf
    masterProgress := (masterProgress_of_some hm).2 ⟨rfl, Nat.zero_le _, rfl⟩
    ampWritten := rfl
    activeConfigured := rfl
    inactiveQuiet := inactiveQuiet_iff.2 fun _ => by simp [bootMaster, hh, hn, ht, hx]
    framesCounted := by simp [framesCounted_iff, bootMaster, hh, hn, hx]
    slaveSends := slaveSends_iff.2 ⟨by simpa [bootMaster] using (slaveSends_iff.1 hi.slaveSends).1,
      fun p hp => by simp [bootMaster, ht] at hp⟩
    historyAllocated := by simp [historyAllocated, bootMaster, hh] }

/-! ### Switch 2 -/

/-- The start of the bus: the amplifier is configured, the green LED lit, and nothing on the lines yet
(R60, R124). -/
theorem inv_startBus (hi : Inv s) (hr : s.role b = some .master) (hg : s.led b .green = some .on)
    (hc : s.ampInitIdx = 40) (ha : s.i2sActive = false) :
    Inv { s with i2sActive := true, frameNo := 0 } := by
  obtain ⟨hh, hn, -, -⟩ := inactiveQuiet_iff.1 hi.inactiveQuiet ha
  have hm := masterBoard_of_role hi.rolesDistinct hr
  have hm' : State.masterBoard { s with i2sActive := true, frameNo := 0 } = some b := hm
  exact { hi with
    masterProgress := (masterProgress_of_some hm').2 ((masterProgress_of_some hm).1 hi.masterProgress)
    activeConfigured := activeConfigured_iff.2 fun _ => ⟨hc, b, hm', hg⟩
    inactiveQuiet := inactiveQuiet_iff.2 fun h => by cases h
    framesCounted := framesCounted_iff.2 <| by
      simpa [hn] using framesCounted_iff.1 hi.framesCounted }

/-- The CRC of the two packets the slave sends is fixed (R147), so a press queues one of the two. -/
theorem slavePacket_of_swNext (h : s.swNext = 0xFF#8 ∨ s.swNext = 0x00#8) :
    slavePacket s = packetOn ∨ slavePacket s = packetOff := by
  unfold slavePacket
  rcases h with h | h <;> rw [h]
  · exact .inl (by decide +kernel)
  · exact .inr (by decide +kernel)

/-- A press of the slave queues a packet while the bus is active (R128). -/
theorem inv_pressSlave (hi : Inv s) (hr : s.role b = some .slave) (ha : s.i2sActive = true) :
    Inv { s with
      txPending := some ⟨slavePacket s, Config.pktFrames⟩
      swNext := s.swNext ^^^ 0xFF#8 } := by
  have hsw := (slaveSends_iff.1 hi.slaveSends).1
  exact { hi with
    inactiveQuiet := inactiveQuiet_iff.2 fun h => by simp [ha] at h
    slaveSends := slaveSends_iff.2 ⟨by rcases hsw with h | h <;> simp [h], fun p hp => by
      obtain rfl := Option.some.inj hp
      exact ⟨slavePacket_of_swNext hsw, Nat.le_add_left 1 _, slaveBoard_isSome_iff.2 ⟨b, hr⟩⟩⟩ }

/-! ### The frame -/

/-- With one board of each role at most, the cells of a placed frame keep the allocation (R57, R101 to
R104). -/
theorem allocated_frame (hd : rolesDistinct s = true) (hm : s.masterBoard.isSome = true)
    (note : Option Bool) :
    allocated ⟨laneOf (allDrives note s) .txm, laneOf (allDrives note s) .rxm⟩ = true := by
  obtain ⟨b, hb⟩ := Option.isSome_iff_exists.1 hm
  have hmaster : s.boardsWith .master = [b] := by
    rw [boardsWith_distinct hd, ← State.masterBoard, hb]; rfl
  have hslave : s.boardsWith .slave = s.slaveBoard.toList := boardsWith_distinct hd _
  simp only [allDrives, masterDrives, slaveDrives, ampDrives, hmaster, hslave]
  cases s.slaveBoard <;> cases s.ampOutputEnabled <;> rfl

/-- What is left waiting after a frame is the same word, still to be placed at least once (R30, R103). -/
theorem pendingAfter_of_some {note : Option Bool} {p : TxPending} (h : pendingAfter note s = some p) :
    ∃ q, s.txPending = some q ∧ p.word = q.word ∧ (1 ≤ q.left → 1 ≤ p.left) := by
  unfold pendingAfter at h
  split at h
  · refine ⟨_, ‹_›, ?_⟩
    split_ifs at h with hs h1
    · cases h
      exact ⟨rfl, fun _ => by dsimp only; omega⟩
    · cases h
      exact ⟨rfl, id⟩
  · cases h

/-- A placed frame joins the history and is not counted before its end (R33, R35). -/
theorem inv_placed {note : Option Bool} (hi : Inv s) (hx : s.rx = none) (ha : s.i2sActive = true)
    (hm : s.masterBoard.isSome = true) : Inv (placed note s) := by
  obtain ⟨hsw, hp⟩ := slaveSends_iff.1 hi.slaveSends
  exact { hi with
    inactiveQuiet := inactiveQuiet_iff.2 fun h => by
      have : s.i2sActive = false := h
      simp [ha] at this
    framesCounted := framesCounted_iff.2 <| by
      have hn := framesCounted_iff.1 hi.framesCounted
      simpa [placed, hx] using hn
    slaveSends := slaveSends_iff.2 ⟨hsw, fun p h => by
      obtain ⟨q, hq, hw, hl⟩ := pendingAfter_of_some h
      obtain ⟨hword, hleft, hs⟩ := hp q hq
      exact ⟨hw ▸ hword, hl hleft, hs⟩⟩
    historyAllocated := by
      have hh := hi.historyAllocated
      simp only [historyAllocated, placed, List.all_append, List.all_cons, List.all_nil, Bool.and_true,
        Bool.and_eq_true] at hh ⊢
      exact ⟨hh, allocated_frame hi.rolesDistinct hm note⟩ }

/-! ### Every effect -/

@[simp] theorem drawP05_i2sActive : (drawP05 b s).i2sActive = s.i2sActive := by simp [drawP05]
@[simp] theorem drawP05_ampInitIdx : (drawP05 b s).ampInitIdx = s.ampInitIdx := by simp [drawP05]
@[simp] theorem drawP05_swNext : (drawP05 b s).swNext = s.swNext := by simp [drawP05]
@[simp] theorem slavePacket_drawP05 : slavePacket (drawP05 b s) = slavePacket s := by simp [slavePacket]

/-- The invariant is kept by every effect a step can have. -/
theorem inv_of_effect {t : State} (h : Effect s t) (hi : Inv s) : Inv t := by
  cases h with
  | ignored w hw => exact inv_endFrame hi hw
  | led w b x hw hb hx =>
    have := inv_endFrame (inv_setLedRx hi b x) (w := w) (by simpa using hw)
    simpa using this
  | write w ws hr hq hl => exact inv_write hi hq hl
  | setP06 b l es hr => exact inv_run (inv_setP06 hi (hr b) l) _
  | setJp41 b p es hr => exact inv_run (inv_setJp41 hi b p) _
  | bootSlave b es hr hp ho => exact inv_run (inv_bootSlave hi hr hp ho) _
  | bootMaster b es hx hq hr hp ho => exact inv_run (inv_bootMaster hi hr hp ho) _
  | pressMaster b es hx hr hc ha hj =>
    have ha' : (drawP05 b s).i2sActive = false := by simpa using ha
    have hg := inv_setGreenOn (inv_drawP05 hi b) b ha'
    exact inv_run (inv_startBus hg (by simpa using hr) (by simp [setLed_led]) (by simpa using hc)
      (by simpa using ha')) _
  | pressSlave b es hr ha hp =>
    have := inv_pressSlave (inv_drawP05 hi b) (b := b) (by simpa using hr) (by simpa using ha)
    rw [drawP05_swNext, slavePacket_drawP05] at this
    exact inv_run this _
  | frame note es hx ha hm hj ht hc => exact inv_run (inv_placed hi hx ha hm) _
  | inject w es => exact inv_run hi _
  | idle => exact hi

/-! ### Runs -/

theorem inv_of_step {t : State} (hi : Inv s) (h : step s = .next t) : Inv t := by
  obtain ⟨-, -, he⟩ := step_effect h
  exact inv_of_effect he hi

theorem inv_start (inputs : RunInputs) : Inv (start inputs) where
  unmarked := rfl
  rolesDistinct := rfl
  roleOfPin b := by cases b <;> rfl
  slaveBlueOn b := by cases b <;> rfl
  ampWf := rfl
  masterProgress := rfl
  ampWritten := rfl
  activeConfigured := rfl
  inactiveQuiet := rfl
  framesCounted := rfl
  slaveSends := rfl
  historyAllocated := rfl

/-- What every step keeps, every run keeps, whatever its length. -/
theorem run_keeps {M : Host.Core} {P : M.State → Prop} (hP : ∀ s t, P s → M.step s = .next t → P t)
    {n : Nat} {s t : M.State} (hs : P s) (h : M.run n s = .next t) : P t := by
  induction n generalizing s with
  | zero => exact Host.Outcome.next.inj h ▸ hs
  | succ n ih =>
    unfold Host.Core.run at h
    split at h
    · exact ih (hP _ _ hs ‹_›) h
    · cases h
    · cases h

/-- Settles O60: the invariant holds at the start under every input and every step keeps it. -/
theorem everyRunMeetsTheInvariant : Obligations.EveryRunMeetsTheInvariant :=
  fun inputs _ _ h => run_keeps (M := core) (P := Inv) (fun _ _ => inv_of_step) (inv_start inputs) h

end Sys2Proof.Proofs
end

section
/-!
The state at reset (10_state.md R39), and the user's settings and presses by the roles of the boards
(R25, R36, 41_board_functions.md R124, R131).
-/

namespace Sys2Proof.Proofs

open Sys2Proof Sys2Proof.Machine Sys2Proof.Safety Sys2Proof.Laws

variable {s : State} {b c : BoardId}

/-- Settles O44: each value of R39 read off the reset state. -/
theorem resetValuesOfTheSystem : Obligations.ResetValuesOfTheSystem :=
  ⟨rfl, rfl, rfl, rfl, rfl, rfl, rfl, rfl,
    fun b => by cases b <;> exact ⟨rfl, rfl, rfl, rfl, fun c => by cases c <;> rfl⟩⟩

/-- Settles O46: reset is the start of the run to which nothing is given. -/
theorem resetMeetsTheInvariant : Obligations.ResetMeetsTheInvariant :=
  inv_start ⟨[], none, false, 0⟩

theorem anyBooted_of_role {r : Role} (h : s.role c = some r) : s.anyBooted = true := by
  by_contra hn
  simp [anyBooted_eq_false.1 (by simpa using hn) c] at h

theorem anyBooted_of_unbooted (h1 : s.role .one = none) (h2 : s.role .two = none) :
    s.anyBooted = false := by
  simp [State.anyBooted, h1, h2]

/-- Settles O33: the two conditions of `setP06`, by which board has a role. -/
theorem roleChangeAfterBootIsRefused : Obligations.RoleChangeAfterBootIsRefused := by
  refine ⟨fun s b l r h => ?_, fun s b l r h ho => ?_, fun s b l h1 h2 => ?_⟩
  · simp [eventStep, setP06, h, refuse, State.markRefused]
  · simp [eventStep, setP06, h, anyBooted_of_role ho, notEnabled]
  · have h : s.role b = none := by cases b <;> assumption
    simp [eventStep, setP06, h, anyBooted_of_unbooted h1 h2]

/-- Switch 2 on a master with a register write of `AmpInit` left does not exist (R60, R124). -/
theorem pressMaster_of_unconfigured (h : s.ampInitIdx ≠ Config.ampRegs) :
    pressMaster b s = notEnabled .ampConfigured :=
  if_pos h

/-- Settles O34: the condition of `setJp41`, the injection, and the presses by the board's role. -/
theorem settingsAndPressRequirements : Obligations.SettingsAndPressRequirements := by
  refine ⟨fun s b p h1 h2 => ?_, fun s b p c r h => ?_, fun s w => rfl, fun s b h => ?_,
    fun s b h hi => ?_⟩
  · simp [eventStep, setJp41, anyBooted_of_unbooted h1 h2]
  · simp [eventStep, setJp41, anyBooted_of_role h, notEnabled]
  · simp [eventStep, pressSw2, h, notEnabled]
  · exact (pressSw2_of_master h).trans (pressMaster_of_unconfigured (by rwa [drawP05_ampInitIdx]))

end Sys2Proof.Proofs
end

section
/-!
What every step leaves as it is, and the one cause of each change: marks (10_state.md R37), lines (R35), the
bus (R27), and the two boards (R24 to R26, R36).
-/

namespace Sys2Proof.Proofs

open Sys2Proof Sys2Proof.Machine Sys2Proof.Safety Sys2Proof.Claims Sys2Proof.Laws

variable {s t : State} {b c : BoardId} {x y : Board} {r : Role}

/-! ### Marks -/

/-- No effect records a fault or sets the mark `refused`. -/
theorem unmarked_of_effect (h : Effect s t) : unmarked t = unmarked s := by
  cases h with
  | pressMaster | pressSlave => simp [unmarked, drawP05]
  | bootSlave | bootMaster => simp [unmarked, bootSlave, bootMaster]
  | setP06 | setJp41 | led => simp [unmarked]
  | ignored | write | frame | inject | idle => rfl

/-- Settles O28: a step that answers a next state started unmarked, and its effect sets no mark. -/
theorem marksStopTheRun : Obligations.MarksStopTheRun := by
  have started {s t : State} (h : step s = .next t) : unmarked s = true :=
    have ⟨hf, hr, _⟩ := step_effect h
    unmarked_iff.2 ⟨hf, hr⟩
  refine ⟨fun s hm t h => by simp [started h] at hm, fun s t h => ?_⟩
  obtain ⟨-, -, he⟩ := step_effect h
  rw [unmarked_of_effect he, started h]

/-! ### The lines -/

/-- Only a frame writes the lines, and it adds itself (R35, R58). -/
theorem history_of_effect (h : Effect s t) : t.history = s.history ∨ ∃ f, t.history = s.history ++ [f] := by
  cases h with
  | frame => exact .inr ⟨_, rfl⟩
  | pressMaster | pressSlave => exact .inl (by simp [drawP05])
  | bootSlave | bootMaster => exact .inl (by simp [bootSlave, bootMaster])
  | setP06 | setJp41 | led => exact .inl (by simp)
  | ignored | write | inject | idle => exact .inl rfl

/-- Settles O54: the effect of a step on the lines. -/
theorem linesOnlyGrow : Obligations.LinesOnlyGrow := by
  intro s t h
  obtain ⟨-, -, he⟩ := step_effect h
  exact history_of_effect he

/-! ### The bus -/

/-- While the bus is active there is a master, so the other board cannot boot as one (R120, R122). -/
theorem no_masterBoot_of_active (hi : Inv s) (ha : s.i2sActive = true) (hr : s.role b = none)
    (ho : s.role (otherBoard b) ≠ some .master) : False := by
  obtain ⟨-, c, hc, -⟩ := activeConfigured_iff.1 hi.activeConfigured ha
  have hm := masterBoard_eq_some hc
  by_cases h : c = b
  · simp [h, hr] at hm
  · exact ho (eq_otherBoard h ▸ hm)

theorem active_of_effect (h : Effect s t) (hi : Inv s) (ha : s.i2sActive = true) : t.i2sActive = true := by
  cases h with
  | bootMaster b es hx hq hr hp ho => exact (no_masterBoot_of_active hi ha hr ho).elim
  | pressMaster => rfl
  | pressSlave | bootSlave | setP06 | setJp41 | led => simpa [bootSlave] using ha
  | ignored | write | frame | inject | idle => exact ha

/-- Settles O51: only a master's boot would stop the bus, and the invariant rules it out. -/
theorem activeBusStaysActive : Obligations.ActiveBusStaysActive := by
  intro s t hi h ha
  obtain ⟨-, -, he⟩ := step_effect h
  exact active_of_effect he hi ha

/-! ### The boards -/

/-- What a step from `s` to `t` can make of board `c`, with what it needs for that. -/
inductive BoardEffect (s t : State) (c : BoardId) : Board → Prop
  /-- The step leaves the board as it is. -/
  | kept : BoardEffect s t c (s.board c)
  /-- A packet sets the board's LED_RX (R150). -/
  | ledRx (v : LedState) : BoardEffect s t c ((s.board c).setLed .ledRx v)
  /-- The user sets P0_6 before any board boots (R25). -/
  | p06 (l : Level) (hr : ∀ d, s.role d = none) : BoardEffect s t c { s.board c with p06 := some l }
  /-- The user sets JP41 before any board boots (R36). -/
  | jp41 (p : Jumper) (hr : ∀ d, s.role d = none) : BoardEffect s t c { s.board c with jp41 := p }
  /-- The board boots as the slave (R121). -/
  | bootSlave (hr : s.role c = none) :
      BoardEffect s t c { s.board c with role := some .slave, blue := some .on }
  /-- The board boots as the master (R123). -/
  | bootMaster (hr : s.role c = none) : BoardEffect s t c { s.board c with role := some .master }
  /-- Switch 2 on the master starts the bus (R124, R130). -/
  | start (l : Level) (hr : s.role c = some .master) (ha : s.i2sActive = false) (ht : t.i2sActive = true) :
      BoardEffect s t c { s.board c with p05 := some l, green := some .on }
  /-- Switch 2 on the slave (R128, R130). -/
  | press (l : Level) : BoardEffect s t c { s.board c with p05 := some l }

/-- A step that replaces board `b` alone. -/
theorem boardEffect_setBoard (h : BoardEffect s t b x) (c : BoardId) :
    BoardEffect s t c ((s.setBoard b x).board c) := by
  by_cases hc : c = b
  · subst hc
    rwa [setBoard_board_self]
  · rw [setBoard_board_other _ _ _ _ hc]
    exact .kept

/-- The press of the master writes both outputs of its board and no other board (R124, R130). -/
theorem masterPress_board :
    ((drawP05 b s).setLed b .green .on).board c =
      (s.setBoard b { s.board b with p05 := some (drawnLevel s), green := some .on }).board c := by
  cases b <;> cases c <;> rfl

theorem boardEffect_of_effect (h : Effect s t) (c : BoardId) : BoardEffect s t c (t.board c) := by
  cases h with
  | led w b v hw hb hv => exact boardEffect_setBoard (.ledRx v) c
  | setP06 b l es hr => exact boardEffect_setBoard (.p06 l hr) c
  | setJp41 b p es hr => exact boardEffect_setBoard (.jp41 p hr) c
  | bootSlave b es hr hp ho => exact boardEffect_setBoard (.bootSlave hr) c
  | bootMaster b es hx hq hr hp ho => exact boardEffect_setBoard (.bootMaster hr) c
  | pressMaster b es hx hr hi ha hj =>
    exact masterPress_board (s := s) ▸ boardEffect_setBoard (.start _ hr ha rfl) c
  | pressSlave b es hr ha hp => exact boardEffect_setBoard (.press _) c
  | ignored | write | frame | inject | idle => exact .kept

theorem boardEffect_of_step (h : step s = .next t) (c : BoardId) : BoardEffect s t c (t.board c) :=
  have ⟨_, _, he⟩ := step_effect h
  boardEffect_of_effect he c

/-- A board boots only where it has no role, and nothing else writes the role (R24). -/
theorem boardEffect_role (h : BoardEffect s t c y) (hr : s.role c = some r) : y.role = some r := by
  cases h with
  | bootSlave hn | bootMaster hn => simp [hn] at hr
  | _ => exact hr

/-- Where some board has a role, nothing writes a jumper or P0_6 (R25, R36). -/
theorem boardEffect_settings (h : BoardEffect s t c y) (hr : s.role b = some r) :
    y.jp41 = (s.board c).jp41 ∧ y.p06 = (s.board c).p06 := by
  cases h with
  | p06 l hn | jp41 p hn => simp [hn b] at hr
  | _ => exact ⟨rfl, rfl⟩

/-- Only a slave's boot writes the blue LED (R121). -/
theorem boardEffect_blue (h : BoardEffect s t c y) (hne : y.blue ≠ (s.board c).blue) :
    s.role c = none ∧ y.role = some .slave ∧ y.blue = some .on := by
  cases h with
  | bootSlave hr => exact ⟨hr, rfl, rfl⟩
  | _ => exact absurd rfl hne

/-- Only the start of the bus writes the green LED (R124). -/
theorem boardEffect_green (h : BoardEffect s t c y) (hne : y.green ≠ (s.board c).green) :
    s.role c = some .master ∧ s.i2sActive = false ∧ t.i2sActive = true ∧ y.green = some .on := by
  cases h with
  | start l hr ha ht => exact ⟨hr, ha, ht, rfl⟩
  | _ => exact absurd rfl hne

/-- Settles O50: a board with a role does not boot. -/
theorem rolesNeverChange : Obligations.RolesNeverChange :=
  fun _ _ b _ h => boardEffect_role (boardEffect_of_step h b)

/-- Settles O56: the settings are moved only before any board boots. -/
theorem settingsStayAfterBoot : Obligations.SettingsStayAfterBoot :=
  fun _ _ b _ _ h => boardEffect_settings (boardEffect_of_step h b)

/-- Settles O53: the one cause of a change of each named LED. -/
theorem namedLedsChangeOnlyAtBootAndStart : Obligations.NamedLedsChangeOnlyAtBootAndStart :=
  fun _ _ b h => ⟨boardEffect_blue (boardEffect_of_step h b), boardEffect_green (boardEffect_of_step h b)⟩

end Sys2Proof.Proofs
end

section
/-!
The faults of a step (60_exceptions.md R190): a marked state's, and a frame's contention (R105).
-/

namespace Sys2Proof.Proofs

open Sys2Proof Sys2Proof.Machine Sys2Proof.Laws

variable {s : State} {b : BoardId} {f : Fault}

theorem ampWrite_ne_fault (a : RegAddr) (v : Byte) : ampWrite a v s ≠ .fault f := by
  unfold ampWrite notEnabled refuse
  split_ifs <;> simp

theorem runPacket_ne_fault (w : PktWord) : runPacket w s ≠ .fault f := by
  rw [runPacket_eq]
  have led (v : LedState) : setMasterLed v s ≠ .fault f := by
    unfold setMasterLed notEnabled
    split <;> simp
  cases pktClass w with
  | ledOn => exact led _
  | ledOff => exact led _
  | _ => simp [refuse]

theorem boot_ne_fault : boot b s ≠ .fault f := by
  unfold boot notEnabled refuse
  repeat' split
  all_goals simp

theorem pressSw2_ne_fault : pressSw2 b s ≠ .fault f := by
  unfold pressSw2 pressMaster pressSlave notEnabled refuse
  repeat' split
  all_goals simp

/-- The only fault of a frame is the contention the check finds, recorded in the marked state (R105). -/
theorem frameStep_fault {note : Option Bool} (h : frameStep note s = .fault f) :
    ∃ l c, f = .busContention l s.frameNo c (s.markFault (.busContention l s.frameNo c)) := by
  unfold frameStep notEnabled refuse raise at h
  repeat' split at h
  all_goals try contradiction
  exact ⟨_, _, (Host.Outcome.fault.inj h).symm⟩

/-- The only event that can end in a fault is a frame. -/
theorem eventStep_fault {e : Event} (h : eventStep e s = .fault f) : ∃ note, frameStep note s = .fault f := by
  cases e with
  | setP06 b l =>
    simp only [eventStep, setP06, refuse, notEnabled] at h
    split_ifs at h
  | setJp41 b p =>
    simp only [eventStep, setJp41, notEnabled] at h
    split_ifs at h
  | boot b => exact absurd h boot_ne_fault
  | pressSw2 b => exact absurd h pressSw2_ne_fault
  | frame note => exact ⟨note, h⟩
  | inject w => cases h

theorem andThen_endFrame_fault {o : Result} (h : andThen o endFrame = .fault f) : o = .fault f := by
  cases o with
  | next u => cases h
  | fault g => exact h
  | refused g => cases h

/-- A step of an unmarked state that ends in a fault is a frame, of the schedule or of the bus itself. -/
theorem stepUnmarked_fault (h : stepUnmarked s = .fault f) :
    ∃ note es, frameStep note { s with run.schedule := es } = .fault f := by
  unfold stepUnmarked at h
  split at h
  · exact absurd (andThen_endFrame_fault h) (runPacket_ne_fault _)
  · split at h
    · exact absurd (runAmpWord_eq _ _ ▸ h) (ampWrite_ne_fault _ _)
    · split at h
      · obtain ⟨note, hf⟩ := eventStep_fault h
        exact ⟨note, _, hf⟩
      · unfold idleStep at h
        split at h
        · exact ⟨none, s.run.schedule, h⟩
        · cases h

/-- A step ends in a fault where the state holds a fault record already, or in a frame's contention, which is
then the one record of the marked state (R105, R190). -/
theorem step_fault (h : step s = .fault f) :
    f = .alreadyFaulted s ∨
      ∃ l n c m, f = .busContention l n c m ∧ m.faults = [.busContention l n c] := by
  unfold step at h
  split at h
  · exact .inl (Host.Outcome.fault.inj h).symm
  · rename_i hf
    split at h
    · cases h
    · obtain ⟨note, es, hs⟩ := stepUnmarked_fault h
      obtain ⟨l, c, rfl⟩ := frameStep_fault hs
      exact .inr ⟨l, _, c, _, rfl, by simpa using hf⟩

/-- Settles O58: the faults of a step are the two of `step_fault`. -/
theorem noStepEndsInReadOfUnspecified : Obligations.NoStepEndsInReadOfUnspecified := by
  refine fun s name => ⟨fun m h => ?_, fun l n c m h => ?_⟩
  · obtain hf | ⟨_, _, _, _, hf, -⟩ := step_fault h <;> cases hf
  · obtain hf | ⟨_, _, _, _, hf, hm⟩ := step_fault h
    · cases hf
    · cases hf
      exact hm

end Sys2Proof.Proofs
end

section
/-!
No rule reads an LED or P0_5 (10_state.md R26, R29, R40): two states that differ in these outputs alone step
alike, and each output is kept in both or set to one value in both.
-/

namespace Sys2Proof.Proofs

open Sys2Proof Sys2Proof.Machine Sys2Proof.Safety Sys2Proof.Laws

/-! ### The relation between two runs -/

/-- From the boards `x₁` and `x₂` to `y₁` and `y₂`, which differ in outputs alone, each output was kept in
both or set to one value in both. -/
structure BoardsAlike (x₁ x₂ y₁ y₂ : Board) : Prop where
  rest : Board.withoutOutputs y₁ = Board.withoutOutputs y₂
  led : ∀ c, y₁.led c = y₂.led c ∨ (y₁.led c = x₁.led c ∧ y₂.led c = x₂.led c)
  p05 : y₁.p05 = y₂.p05 ∨ (y₁.p05 = x₁.p05 ∧ y₂.p05 = x₂.p05)

/-- The same from the states `s₁` and `s₂` to `t₁` and `t₂`. -/
structure StepAlike (s₁ s₂ t₁ t₂ : State) : Prop where
  rest : withoutOutputs t₁ = withoutOutputs t₂
  boards : ∀ b, BoardsAlike (s₁.board b) (s₂.board b) (t₁.board b) (t₂.board b)

variable {s₁ s₂ t₁ t₂ u₁ u₂ : State} {x₁ x₂ y₁ y₂ z₁ z₂ : Board}

theorem BoardsAlike.refl (h : Board.withoutOutputs x₁ = Board.withoutOutputs x₂) :
    BoardsAlike x₁ x₂ x₁ x₂ :=
  ⟨h, fun _ => .inr ⟨rfl, rfl⟩, .inr ⟨rfl, rfl⟩⟩

theorem BoardsAlike.trans (h : BoardsAlike x₁ x₂ y₁ y₂) (k : BoardsAlike y₁ y₂ z₁ z₂) :
    BoardsAlike x₁ x₂ z₁ z₂ where
  rest := k.rest
  led c := by
    rcases k.led c with hz | ⟨hz₁, hz₂⟩
    · exact .inl hz
    · rw [hz₁, hz₂]
      exact h.led c
  p05 := by
    rcases k.p05 with hz | ⟨hz₁, hz₂⟩
    · exact .inl hz
    · rw [hz₁, hz₂]
      exact h.p05

theorem StepAlike.trans (h : StepAlike s₁ s₂ t₁ t₂) (k : StepAlike t₁ t₂ u₁ u₂) :
    StepAlike s₁ s₂ u₁ u₂ :=
  ⟨k.rest, fun b => (h.boards b).trans (k.boards b)⟩

theorem withoutOutputs_board (s : State) (b : BoardId) :
    (withoutOutputs s).board b = Board.withoutOutputs (s.board b) := by
  cases b <;> rfl

theorem withoutOutputs_role (s : State) (b : BoardId) : (withoutOutputs s).role b = s.role b := by
  rw [State.role, withoutOutputs_board]
  rfl

theorem board_of_rest (h : withoutOutputs s₁ = withoutOutputs s₂) (b : BoardId) :
    Board.withoutOutputs (s₁.board b) = Board.withoutOutputs (s₂.board b) := by
  rw [← withoutOutputs_board, h, withoutOutputs_board]

theorem role_of_rest (h : withoutOutputs s₁ = withoutOutputs s₂) (b : BoardId) : s₁.role b = s₂.role b :=
  (congrArg Board.role (board_of_rest h b) :)

/-- An update that leaves the boards alone and does not read their outputs. -/
theorem StepAlike.of_keeps_boards {f : State → State}
    (hf : ∀ s, withoutOutputs (f s) = f (withoutOutputs s)) (hb : ∀ s b, (f s).board b = s.board b)
    (h : withoutOutputs s₁ = withoutOutputs s₂) : StepAlike s₁ s₂ (f s₁) (f s₂) where
  rest := by rw [hf, h, hf]
  boards b := by
    rw [hb, hb]
    exact .refl (board_of_rest h b)

theorem withoutOutputs_setBoard (s : State) (b : BoardId) (x : Board) :
    withoutOutputs (s.setBoard b x) = (withoutOutputs s).setBoard b (Board.withoutOutputs x) := by
  cases b <;> rfl

/-- Two boards put in the same place. -/
theorem StepAlike.setBoard {b : BoardId} (h : withoutOutputs s₁ = withoutOutputs s₂)
    (hx : BoardsAlike (s₁.board b) (s₂.board b) x₁ x₂) :
    StepAlike s₁ s₂ (s₁.setBoard b x₁) (s₂.setBoard b x₂) where
  rest := by rw [withoutOutputs_setBoard, withoutOutputs_setBoard, h, hx.rest]
  boards c := by
    by_cases hc : c = b
    · subst hc
      simpa using hx
    · rw [setBoard_board_other _ _ _ _ hc, setBoard_board_other _ _ _ _ hc]
      exact .refl (board_of_rest h c)

/-! ### Writes of a board -/

/-- An LED write sets one value in both. -/
theorem BoardsAlike.setLed (h : Board.withoutOutputs x₁ = Board.withoutOutputs x₂) (c : LedName)
    (v : LedState) : BoardsAlike x₁ x₂ (x₁.setLed c v) (x₂.setLed c v) where
  rest := by cases c <;> exact h
  led d := by
    by_cases hd : d = c
    · subst hd
      simp
    · exact .inr ⟨boardSetLed_led_other _ _ _ _ hd, boardSetLed_led_other _ _ _ _ hd⟩
  p05 := .inr ⟨boardSetLed_p05 _ _ _, boardSetLed_p05 _ _ _⟩

/-- A write of P0_5 sets one value in both. -/
theorem BoardsAlike.setP05 (h : Board.withoutOutputs x₁ = Board.withoutOutputs x₂) (l : Option Level) :
    BoardsAlike x₁ x₂ { x₁ with p05 := l } { x₂ with p05 := l } where
  rest := h
  led c := .inr (by cases c <;> exact ⟨rfl, rfl⟩)
  p05 := .inl rfl

/-- A write of the board's role or settings keeps every output. -/
theorem BoardsAlike.of_keeps_outputs {f : Board → Board}
    (hf : ∀ x, Board.withoutOutputs (f x) = f (Board.withoutOutputs x)) (hl : ∀ x c, (f x).led c = x.led c)
    (hp : ∀ x, (f x).p05 = x.p05) (h : Board.withoutOutputs x₁ = Board.withoutOutputs x₂) :
    BoardsAlike x₁ x₂ (f x₁) (f x₂) where
  rest := by rw [hf, h, hf]
  led c := .inr ⟨hl _ c, hl _ c⟩
  p05 := .inr ⟨hp _, hp _⟩

theorem StepAlike.setLed (h : withoutOutputs s₁ = withoutOutputs s₂) (b : BoardId) (c : LedName)
    (v : LedState) : StepAlike s₁ s₂ (s₁.setLed b c v) (s₂.setLed b c v) :=
  .setBoard h (.setLed (board_of_rest h b) c v)

theorem StepAlike.drawP05 (h : withoutOutputs s₁ = withoutOutputs s₂) (b : BoardId) :
    StepAlike s₁ s₂ (drawP05 b s₁) (drawP05 b s₂) := by
  have hd : s₁.run.draws = s₂.run.draws := congrArg (·.run.draws) h
  have hset := StepAlike.setBoard h (.setP05 (board_of_rest h b)
    (some (if Config.p05High s₁.run.draws then Level.high else Level.low)))
  have hdrawn := hset.trans (.of_keeps_boards (f := State.drawn) (fun _ => rfl) (fun _ _ => rfl) hset.rest)
  rw [Machine.drawP05, Machine.drawP05, ← hd]
  exact hdrawn

theorem StepAlike.bootSlave (h : withoutOutputs s₁ = withoutOutputs s₂) (b : BoardId) :
    StepAlike s₁ s₂ (bootSlave b s₁) (bootSlave b s₂) := by
  have hrole := BoardsAlike.of_keeps_outputs (f := fun x => { x with role := some .slave })
    (fun _ => rfl) (fun _ c => by cases c <;> rfl) (fun _ => rfl) (board_of_rest h b)
  have hset := StepAlike.setBoard h (hrole.trans (.setLed hrole.rest .blue .on))
  exact hset.trans (.of_keeps_boards (f := fun s => { s with swNext := 0xFF#8, txPending := none })
    (fun _ => rfl) (fun _ _ => rfl) hset.rest)

theorem StepAlike.bootMaster (h : withoutOutputs s₁ = withoutOutputs s₂) (b : BoardId) :
    StepAlike s₁ s₂ (bootMaster b s₁) (bootMaster b s₂) := by
  have hset := StepAlike.setBoard h <| .of_keeps_outputs (f := fun x => { x with role := some .master })
    (fun _ => rfl) (fun _ c => by cases c <;> rfl) (fun _ => rfl) (board_of_rest h b)
  exact hset.trans (.of_keeps_boards
    (f := fun s => { s with i2sActive := false, ampInitIdx := 0, i2cReady := true, i2cQueue := ampWords })
    (fun _ => rfl) (fun _ _ => rfl) hset.rest)

/-! ### Operations -/

/-- `f` answers alike on two states that differ in outputs alone. -/
def BlindToOutputs (f : State → Result) : Prop :=
  ∀ s₁ s₂ t₁, withoutOutputs s₁ = withoutOutputs s₂ → f s₁ = .next t₁ →
    ∃ t₂, f s₂ = .next t₂ ∧ StepAlike s₁ s₂ t₁ t₂

namespace BlindToOutputs

theorem notEnabled (r : Requirement) : BlindToOutputs fun _ => notEnabled r := by
  intro s₁ s₂ t₁ _ h
  cases h

theorem refuse (why : State → Refusal) : BlindToOutputs (refuse why) := by
  intro s₁ s₂ t₁ _ h
  cases h

theorem next {f : State → State}
    (hf : ∀ s₁ s₂, withoutOutputs s₁ = withoutOutputs s₂ → StepAlike s₁ s₂ (f s₁) (f s₂)) :
    BlindToOutputs fun s => .next (f s) := by
  intro s₁ s₂ t₁ hs h
  cases h
  exact ⟨_, rfl, hf _ _ hs⟩

/-- An update that leaves the boards alone and does not read their outputs. -/
theorem next_keeps {f : State → State} (hf : ∀ s, withoutOutputs (f s) = f (withoutOutputs s))
    (hb : ∀ s b, (f s).board b = s.board b) : BlindToOutputs fun s => .next (f s) :=
  next fun _ _ => .of_keeps_boards hf hb

/-- A choice whose condition does not read the outputs. -/
theorem ite {c : State → Prop} [∀ s, Decidable (c s)] {f g : State → Result}
    (hc : ∀ s, c (withoutOutputs s) = c s) (hf : BlindToOutputs f) (hg : BlindToOutputs g) :
    BlindToOutputs fun s => if c s then f s else g s := by
  intro s₁ s₂ t₁ hs h
  have hcs : c s₁ = c s₂ := by rw [← hc, hs, hc]
  beta_reduce at h ⊢
  simp only [← hcs]
  split_ifs at h ⊢
  · exact hf _ _ _ hs h
  · exact hg _ _ _ hs h

/-- One operation after another. -/
theorem andThen {f g : State → Result} (hf : BlindToOutputs f) (hg : BlindToOutputs g) :
    BlindToOutputs fun s => andThen (f s) g := by
  intro s₁ s₂ t₁ hs h
  beta_reduce at h ⊢
  cases h₁ : f s₁ with
  | fault r => rw [h₁] at h; cases h
  | refused r => rw [h₁] at h; cases h
  | next u₁ =>
    rw [h₁] at h
    obtain ⟨u₂, h₂, hu⟩ := hf _ _ _ hs h₁
    obtain ⟨t₂, ht, hut⟩ := hg _ _ _ hu.rest h
    exact ⟨t₂, by rw [h₂]; exact ht, hu.trans hut⟩

/-- An update of what is no output, before an operation. -/
theorem comp_keeps {f : State → State} {g : State → Result} (hg : BlindToOutputs g)
    (hf : ∀ s, withoutOutputs (f s) = f (withoutOutputs s)) (hb : ∀ s b, (f s).board b = s.board b) :
    BlindToOutputs fun s => g (f s) :=
  andThen (next_keeps hf hb) hg

end BlindToOutputs

theorem ampWrite_blindToOutputs (a : RegAddr) (v : Byte) : BlindToOutputs (ampWrite a v) :=
  .ite (fun _ => rfl) (.notEnabled _) <|
    .ite (fun _ => rfl) (.notEnabled _) <|
      .ite (fun _ => rfl) (.next_keeps (fun _ => rfl) fun _ _ => rfl) (.refuse _)

theorem runAmpWord_blindToOutputs (w : AmpWord) : BlindToOutputs (runAmpWord w) := by
  rw [funext (runAmpWord_eq w)]
  exact ampWrite_blindToOutputs _ _

theorem setMasterLed_blindToOutputs (v : LedState) : BlindToOutputs (setMasterLed v) := by
  intro s₁ s₂ t₁ hs h
  obtain ⟨b, hb, rfl⟩ := setMasterLed_next h
  have hm : s₁.masterBoard = s₂.masterBoard := (congrArg State.masterBoard hs :)
  exact ⟨s₂.setLed b .ledRx v, by rw [setMasterLed, ← hm, hb], .setLed hs b _ v⟩

theorem runPacket_blindToOutputs (w : PktWord) : BlindToOutputs (runPacket w) := by
  rw [funext (runPacket_eq w)]
  cases pktClass w with
  | notAPacket | corrupted => exact .next_keeps (f := id) (fun _ => rfl) fun _ _ => rfl
  | unimplementedSource n => exact .refuse _
  | ledOn => exact setMasterLed_blindToOutputs .on
  | ledOff => exact setMasterLed_blindToOutputs .off
  | unspecifiedPayload => exact .refuse _

theorem endFrame_blindToOutputs : BlindToOutputs endFrame :=
  .next_keeps (fun _ => rfl) fun _ _ => rfl

theorem frameStep_blindToOutputs (note : Option Bool) : BlindToOutputs (frameStep note) := by
  intro s₁ s₂ t₁ hs h
  obtain ⟨ha, hm, hj, ht, hc, rfl⟩ := frameStep_next h
  have hactive : s₁.i2sActive = s₂.i2sActive := congrArg (·.i2sActive) hs
  have hmaster : s₁.masterBoard = s₂.masterBoard := (congrArg State.masterBoard hs :)
  have hjumpers : s₁.jumpersRouted = s₂.jumpersRouted := (congrArg State.jumpersRouted hs :)
  have hamp : s₁.amp = s₂.amp := congrArg (·.amp) hs
  have hdrives : allDrives note s₁ = allDrives note s₂ := (congrArg (allDrives note) hs :)
  exact ⟨_, frameStep_ready (hactive ▸ ha) (hmaster ▸ hm) (hjumpers ▸ hj) (hamp ▸ ht) (hdrives ▸ hc),
    .of_keeps_boards (f := placed note) (fun _ => rfl) (fun _ _ => rfl) hs⟩

/-! ### The user's events -/

theorem setP06_blindToOutputs (b : BoardId) (l : Level) : BlindToOutputs (setP06 b l) :=
  .ite (fun s => by rw [withoutOutputs_role]) (.refuse _) <|
    .ite (fun _ => rfl) (.notEnabled _) <|
      .next fun _ _ h => .setBoard h <| .of_keeps_outputs (f := fun x => { x with p06 := some l })
        (fun _ => rfl) (fun _ c => by cases c <;> rfl) (fun _ => rfl) (board_of_rest h b)

theorem setJp41_blindToOutputs (b : BoardId) (p : Jumper) : BlindToOutputs (setJp41 b p) :=
  .ite (fun _ => rfl) (.notEnabled _) <|
    .next fun _ _ h => .setBoard h <| .of_keeps_outputs (f := fun x => { x with jp41 := p })
      (fun _ => rfl) (fun _ c => by cases c <;> rfl) (fun _ => rfl) (board_of_rest h b)

theorem boot_blindToOutputs (b : BoardId) : BlindToOutputs (boot b) := by
  intro s₁ s₂ t₁ hs h
  have hpin : (s₁.board b).p06 = (s₂.board b).p06 := (congrArg Board.p06 (board_of_rest hs b) :)
  obtain ⟨hr, l, hl, ho, ⟨rfl, rfl⟩ | ⟨rfl, rfl⟩⟩ := boot_next h
  all_goals rw [role_of_rest hs] at hr ho; rw [hpin] at hl
  · exact ⟨_, boot_low hr hl ho, .bootSlave hs b⟩
  · exact ⟨_, boot_high hr hl ho, .bootMaster hs b⟩

theorem pressMaster_blindToOutputs (b : BoardId) : BlindToOutputs (pressMaster b) :=
  .ite (fun _ => rfl) (.notEnabled _) <|
    .ite (fun _ => rfl) (.refuse _) <|
      .ite (fun _ => rfl) (.notEnabled _) <|
        .next fun _ _ h =>
          have hled := StepAlike.setLed h b .green .on
          hled.trans (.of_keeps_boards (f := fun s => { s with i2sActive := true, frameNo := 0 })
            (fun _ => rfl) (fun _ _ => rfl) hled.rest)

theorem pressSlave_blindToOutputs : BlindToOutputs pressSlave :=
  .ite (fun _ => rfl) (.refuse _) <|
    .ite (fun _ => rfl) (.refuse _) <| .next_keeps (fun _ => rfl) fun _ _ => rfl

theorem pressSw2_blindToOutputs (b : BoardId) : BlindToOutputs (pressSw2 b) := by
  intro s₁ s₂ t₁ hs h
  have hrole := role_of_rest hs b
  have hdraw : BlindToOutputs fun s => .next (drawP05 b s) := .next fun _ _ h => .drawP05 h b
  obtain ⟨hr, h⟩ | ⟨hr, h⟩ := pressSw2_next h
  · rw [pressSw2_of_master (hrole ▸ hr)]
    exact hdraw.andThen (pressMaster_blindToOutputs b) _ _ _ hs h
  · rw [pressSw2_of_slave (hrole ▸ hr)]
    exact hdraw.andThen pressSlave_blindToOutputs _ _ _ hs h

theorem eventStep_blindToOutputs (e : Event) : BlindToOutputs (eventStep e) :=
  match e with
  | .setP06 b l => setP06_blindToOutputs b l
  | .setJp41 b p => setJp41_blindToOutputs b p
  | .boot b => boot_blindToOutputs b
  | .pressSw2 b => pressSw2_blindToOutputs b
  | .frame note => frameStep_blindToOutputs note
  | .inject _ => .next_keeps (fun _ => rfl) fun _ _ => rfl

/-! ### The step -/

theorem idleStep_blindToOutputs : BlindToOutputs idleStep :=
  .ite (fun _ => rfl) (frameStep_blindToOutputs none) (.next_keeps (f := id) (fun _ => rfl) fun _ _ => rfl)

section Equations

variable {s : State} (hx : s.rx = none)

theorem stepUnmarked_of_rx {w : PktWord} (hw : s.rx = some w) :
    stepUnmarked s = andThen (runPacket w { s with rx := none }) endFrame := by
  simp only [stepUnmarked, hw]

include hx

theorem stepUnmarked_of_write {w : AmpWord} {ws : List AmpWord} (hq : s.i2cQueue = w :: ws) :
    stepUnmarked s = runAmpWord w { s with i2cQueue := ws } := by
  simp only [stepUnmarked, hx, hq]

theorem stepUnmarked_of_event {e : Event} {es : List Event} (hq : s.i2cQueue = [])
    (he : s.run.schedule = e :: es) : stepUnmarked s = eventStep e { s with run.schedule := es } := by
  simp only [stepUnmarked, hx, hq, he]

theorem stepUnmarked_of_no_event (hq : s.i2cQueue = []) (he : s.run.schedule = []) :
    stepUnmarked s = idleStep s := by
  simp only [stepUnmarked, hx, hq, he]

end Equations

theorem stepUnmarked_blindToOutputs : BlindToOutputs stepUnmarked := by
  intro s₁ s₂ t₁ hs h
  have hx : s₂.rx = s₁.rx := congrArg (·.rx) hs.symm
  have hq : s₂.i2cQueue = s₁.i2cQueue := congrArg (·.i2cQueue) hs.symm
  have he : s₂.run.schedule = s₁.run.schedule := congrArg (·.run.schedule) hs.symm
  unfold stepUnmarked at h
  split at h
  · rename_i w hw
    rw [stepUnmarked_of_rx (hx.trans hw)]
    exact ((runPacket_blindToOutputs w).comp_keeps (f := fun s => { s with rx := none }) (fun _ => rfl)
      fun _ _ => rfl).andThen endFrame_blindToOutputs _ _ _ hs h
  · rename_i hw
    split at h
    · rename_i w ws hws
      rw [stepUnmarked_of_write (hx.trans hw) (hq.trans hws)]
      exact (runAmpWord_blindToOutputs w).comp_keeps (f := fun s => { s with i2cQueue := ws })
        (fun _ => rfl) (fun _ _ => rfl) _ _ _ hs h
    · rename_i hws
      split at h
      · rename_i e es hes
        rw [stepUnmarked_of_event (hx.trans hw) (hq.trans hws) (he.trans hes)]
        exact (eventStep_blindToOutputs e).comp_keeps (f := fun s => { s with run.schedule := es })
          (fun _ => rfl) (fun _ _ => rfl) _ _ _ hs h
      · rename_i hes
        rw [stepUnmarked_of_no_event (hx.trans hw) (hq.trans hws) (he.trans hes)]
        exact idleStep_blindToOutputs _ _ _ hs h

theorem step_blindToOutputs : BlindToOutputs step :=
  .ite (fun _ => rfl) (fun _ _ _ _ h => by cases h) <|
    .ite (fun _ => rfl) (fun _ _ _ _ h => by cases h) stepUnmarked_blindToOutputs

/-- Settles O55: every operation of the step is blind to the outputs. -/
theorem outputsAreNeverRead : Obligations.OutputsAreNeverRead := by
  intro s₁ s₂ t₁ hs h
  obtain ⟨t₂, h₂, ha⟩ := step_blindToOutputs s₁ s₂ t₁ hs h
  exact ⟨t₂, h₂, ha.rest, fun b c => (ha.boards b).led c, fun b => (ha.boards b).p05⟩

end Sys2Proof.Proofs
end

section
/-!
Every step keeps the invariant, and the invariant has the amplifier configured while the bus is active
(20_memory.md R60, 43_max98388.md R168).
-/

namespace Sys2Proof.Proofs

open Sys2Proof Sys2Proof.Machine Sys2Proof.Safety Sys2Proof.Claims

variable {s : State}

/-- Settles O47: each effect a step can have keeps the invariant. -/
theorem stepKeepsTheInvariant : Obligations.StepKeepsTheInvariant :=
  fun _ _ => inv_of_step

/-- With all 40 writes counted, the written part of the table is the whole of it. -/
theorem table_of_active (hi : Inv s) (ha : s.i2sActive = true) : s.ampInitIdx = 40 ∧ ampIsTable s := by
  obtain ⟨hidx, -⟩ := activeConfigured_iff.1 hi.activeConfigured ha
  have hall : ampTable.take s.ampInitIdx = ampTable := hidx ▸ rfl
  exact ⟨hidx, fun r hr => ampWritten_iff.1 hi.ampWritten r (hall.symm ▸ hr)⟩

/-- Settles O49: the next state meets the invariant too. -/
theorem activeBusHasAConfiguredAmplifier : Obligations.ActiveBusHasAConfiguredAmplifier :=
  fun _ _ hi h => table_of_active (inv_of_step hi h)

end Sys2Proof.Proofs
end

section
/-!
The amplifier's memory: a second write of the same value, and the canonical form from step to step
(20_memory.md R50 to R52).
-/

namespace Sys2Proof.Proofs

open Sys2Proof Sys2Proof.Machine Sys2Proof.Claims Sys2Proof.Laws

variable {s t : State}

/-- Both memories are canonical and hold the same registers, so they are the same list (R52). -/
theorem write_write_self {m : Memory} {a : Nat} (v : Byte) (hm : Memory.wf m = true)
    (ha : ampListed a = true) : Memory.write (Memory.write m a v) a v = Memory.write m a v := by
  have hw : Memory.wf (Memory.write m a v) = true := write_wf v ha hm
  refine wf_ext (write_wf v ha hw) hw fun b => ?_
  by_cases hb : b = a
  · rw [hb, read_write_self, read_write_self]
  · exact read_write_other _ v hb

/-- The same register write again only counts (R52, R165). -/
theorem ampStored_ampStored {a : RegAddr} (v : Byte) (hm : Memory.wf s.amp = true)
    (ha : ampListed a.toNat = true) : (s.ampStored a v).ampStored a v =
      { s.ampStored a v with ampInitIdx := min Config.ampRegs ((s.ampStored a v).ampInitIdx + 1) } := by
  rw [State.ampStored, ampStored_amp, write_write_self v hm ha, ← ampStored_amp]

/-- Settles O23: a register write leaves the state able to write, so it runs again. -/
theorem registerWriteTwiceLeavesTheRegistersOfOne :
    Obligations.RegisterWriteTwiceLeavesTheRegistersOfOne := by
  refine ⟨fun m a v hm ha => write_write_self v hm ha, fun s a v hm hs hr => ?_⟩
  have ha : ampListed a.toNat = true := ampListed_iff.2 hr
  have hs' : writeReady (s.ampStored a v) := hs
  refine ⟨_, _, runAmpWord_append hs ha, runAmpWord_append hs' ha, ?_⟩
  rw [ampStored_ampStored v hm ha]
  exact ⟨rfl, fun hn => Nat.min_eq_right hn, fun hn => Nat.min_eq_left (Nat.le_succ_of_le hn), rfl⟩

/-- Only a register write of `AmpInit` touches the memory, and it writes a listed address (R50, R51). -/
theorem ampWf_of_effect (h : Effect s t) (hw : Memory.wf s.amp = true) : Memory.wf t.amp = true := by
  cases h with
  | write w ws hr hq hl => exact write_wf _ hl hw
  | pressMaster | pressSlave => simpa [drawP05] using hw
  | bootSlave | bootMaster => simpa [bootSlave, bootMaster] using hw
  | setP06 | setJp41 | led => simpa using hw
  | ignored | frame | inject | idle => exact hw

/-- Settles O48: the effect of a step on the memory. -/
theorem stepKeepsTheMemoryForm : Obligations.StepKeepsTheMemoryForm := by
  intro s t hw h
  obtain ⟨-, -, he⟩ := step_effect h
  exact ampWf_of_effect he hw

end Sys2Proof.Proofs
end

section
/-!
What the master receives in the slave's pair (20_memory.md R58, 40_i2s_bus.md R103, R106, R107).
-/

namespace Sys2Proof.Proofs

open Sys2Proof Sys2Proof.Machine Sys2Proof.Safety Sys2Proof.Claims Sys2Proof.Laws

variable {s : State} {note : Option Bool}

/-! ### The slave's pair of cells -/

/-- The two cells of a pair together hold the permuted word (R106). -/
theorem wireDecode_wireEncode (w : PktWord) : wireDecode (wireEncode w) = w := by
  have happ (x : PktWord) : x.extractLsb' 32 32 ++ x.extractLsb' 0 32 = x :=
    BitVec.extractLsb'_append_extractLsb' (w := 32) (len := 32)
  rw [wireDecode, wireEncode, happ, Equiv.symm_apply_apply]

/-- In a frame that sends it, the waiting packet is in the slave's cells (R103). -/
theorem slaveCells_of_sent {p : TxPending} (hp : s.txPending = some p) (hn : sendNow note s = true)
    (hs : s.slaveBoard ≠ none) : slaveCells note s = wireEncode p.word := by
  simp [slaveCells, placedWord, hp, hn, Option.isSome_iff_ne_none.2 hs]

/-- In a frame that sends no packet, the slave's cells hold the idle fill (R103). -/
theorem slaveCells_of_idle (h : s.txPending = none ∨ sendNow note s = false) :
    slaveCells note s = (Config.idleFill s.run.draws 2, Config.idleFill s.run.draws 3) := by
  have hw : placedWord note s = none := by
    rcases h with h | h
    · simp [placedWord, h]
    · cases hp : s.txPending <;> simp [placedWord, hp, h]
  rw [slaveCells, hw]

/-- With one board of each role at most, `PAIR_1` of `RXM` has the slave's cells (R103). -/
theorem rxm_pair1_of_slave (hd : rolesDistinct s = true) (hs : s.slaveBoard ≠ none) :
    (laneOf (allDrives note s) .rxm).pair 1 =
      (.driven .slave (slaveCells note s).1, .driven .slave (slaveCells note s).2) := by
  obtain ⟨b, hb⟩ := Option.ne_none_iff_exists'.1 hs
  have hmaster : s.boardsWith .master = s.masterBoard.toList := boardsWith_distinct hd _
  have hslave : s.boardsWith .slave = [b] := by
    rw [boardsWith_distinct hd, ← State.slaveBoard, hb, Option.toList_some]
  simp only [allDrives, masterDrives, slaveDrives, ampDrives, hmaster, hslave]
  cases s.masterBoard <;> cases s.ampOutputEnabled <;> rfl

/-- With no slave, nobody drives `PAIR_1` of `RXM` (R99, R103). -/
theorem rxm_pair1_of_no_slave (hd : rolesDistinct s = true) (hs : s.slaveBoard = none) :
    (laneOf (allDrives note s) .rxm).pair 1 = (.hiZ, .hiZ) := by
  have hmaster : s.boardsWith .master = s.masterBoard.toList := boardsWith_distinct hd _
  have hslave : s.boardsWith .slave = [] := by
    rw [boardsWith_distinct hd, ← State.slaveBoard, hs, Option.toList_none]
  simp only [allDrives, masterDrives, slaveDrives, ampDrives, hmaster, hslave]
  cases s.masterBoard <;> cases s.ampOutputEnabled <;> rfl

/-! ### Reception -/

/-- Without an injected word the received word is decoded from what `PAIR_1` of `RXM` gives (R107). -/
theorem placed_rx_of_pair1 (hi : s.run.inject = none) {x y : LineCell}
    (hp : (laneOf (allDrives note s) .rxm).pair 1 = (x, y)) :
    (placed note s).rx = some (wireDecode (recv s 2 x, recv s 3 y)) := by
  obtain ⟨rfl, rfl⟩ := Prod.mk.inj hp
  simp only [placed, receivedWord, hi]
  rfl

/-- Settles O41: what `PAIR_1` of `RXM` holds in the frame, by the arm of `recv`. -/
theorem masterReceivesThePlacedWord : Obligations.MasterReceivesThePlacedWord := by
  intro note s t hr h
  obtain ⟨-, -, -, hd, -⟩ := hr
  obtain ⟨-, -, -, -, -, rfl⟩ := frameStep_next h
  refine ⟨fun w hw => ?_, fun hi => ⟨fun hs hq => ?_, fun hs hq => ?_, fun hs => ?_⟩⟩
  · simp only [placed, receivedWord, hw]
  · have hx : (placed note s).rx = some (wireDecode (slaveCells note s)) := by
      simpa [recv, hq] using placed_rx_of_pair1 hi (rxm_pair1_of_slave hd hs)
    refine ⟨fun p hp hn => ?_, fun hidle => ?_⟩
    · rw [hx, slaveCells_of_sent hp hn hs, wireDecode_wireEncode]
    · rw [hx, slaveCells_of_idle hidle]
  · simpa [recv, hq] using placed_rx_of_pair1 hi (rxm_pair1_of_slave hd hs)
  · simpa [recv] using placed_rx_of_pair1 hi (rxm_pair1_of_no_slave hd hs)

end Sys2Proof.Proofs
end

section
/-!
The two formats' encodings (30_encoding.md R71, R73, R76, R77): encoding and decoding are inverse to each other, and
the register-write decoder accepts the words of the table (R73, R80).
-/

namespace Sys2Proof.Proofs

open Sys2Proof Sys2Proof.Machine Sys2Proof.Laws

variable {i : Instr} {w : AmpWord}

/-- Every instruction of the list of register writes has its row of the table (R166). -/
theorem exists_row (hi : i ∈ ampInstrs) : ∃ r, (r, i) ∈ ampTable.zip ampInstrs := by
  have h : (ampTable.zip ampInstrs).map Prod.snd = ampInstrs := by decide
  rw [← h] at hi
  simpa using hi

/-- A unit is a packet or one of the 40 register writes (R77). -/
theorem packet_or_registerWrite (i : Instr) :
    (∃ length data crc, i = .pktSrcGpio length data crc) ∨ i ∈ ampInstrs := by
  cases i with
  | pktSrcGpio length data crc => exact .inl ⟨length, data, crc, rfl⟩
  | _ => exact .inr (by decide)

/-- A packet decodes from its word whatever its length, data and CRC (R71, R77). -/
theorem decodePkt_pktWord (length : Byte) (data : PktData) (crc : Byte) :
    decodePkt (pktWord Config.srcGpio length data crc) = .ok (.pktSrcGpio length data crc) :=
  decodePkt_ok.2 (by simp)

/-- Settles O1: a packet by its fields, a register write by its row of the table. -/
theorem decodeEncodeEveryUnit : Obligations.DecodeEncodeEveryUnit := by
  intro i
  obtain ⟨length, data, crc, rfl⟩ | hi := packet_or_registerWrite i
  · exact decodePkt_pktWord length data crc
  · obtain ⟨r, hr⟩ := exists_row hi
    rw [encode_of_row (r, i) hr]
    exact decodeAmpw_of_row (r, i) hr

/-- Settles O2: a packet word is assembled from its fields, a register write is its row's word. -/
theorem encodeDecodeEveryWord : Obligations.EncodeDecodeEveryWord := by
  intro u i h
  cases u with
  | pkt64 w =>
    obtain ⟨hstart, hsource, rfl⟩ := decodePkt_ok.1 h
    rw [encode, ← hsource, pktWord_of_fields w hstart]
  | ampw24 w =>
    obtain ⟨r, hr, rfl⟩ := decodeAmpw_ok h
    exact encode_of_row (r, i) hr

/-- The register-write decoder accepts exactly the words of the rows (R73, R76). -/
theorem decodeAmpw_accepts_iff : (∃ i, decodeAmpw w = .ok i) ↔ ∃ r ∈ ampTable, w = r.word := by
  constructor
  · rintro ⟨i, h⟩
    obtain ⟨r, hr, hw⟩ := decodeAmpw_ok h
    exact ⟨r, mem_ampTable_iff.2 ⟨i, hr⟩, hw⟩
  · rintro ⟨r, hr, rfl⟩
    obtain ⟨i, hi⟩ := mem_ampTable_iff.1 hr
    exact ⟨i, decodeAmpw_of_row (r, i) hi⟩

/-- Settles O4: the words accepted, and the addresses rejected as unlisted. -/
theorem ampwDecoderAcceptsTheTable : Obligations.AmpwDecoderAcceptsTheTable :=
  fun _ => ⟨decodeAmpw_accepts_iff, decodeAmpw_unlisted⟩

end Sys2Proof.Proofs
end

section
/-!
The classes of the packet's encoding space (30_encoding.md R78): the words of the two defined classes (R147), and
the reception of a word by its class (42_data_packet.md R149 to R151).
-/

namespace Sys2Proof.Proofs

open Sys2Proof Sys2Proof.Machine Sys2Proof.Safety Sys2Proof.Laws

variable {w : PktWord} {d : PktData} {c : Byte}

/-- The word passes every check of R78 and carries the data `d` with length 1. -/
def Carries (w : PktWord) (d : PktData) : Prop :=
  pktStart w = Config.startNibble ∧ crcOk w = true ∧ pktSource w = Config.srcGpio ∧
    pktLength w = 0x01#8 ∧ pktData w = d

/-- The class 'LED on' is reached past the checks of start, CRC and source (R78). -/
theorem pktClass_ledOn_iff : pktClass w = .ledOn ↔ Carries w 0x00000000FF#40 := by
  rw [pktClass_eq, Carries]
  split_ifs <;> simp_all

/-- The class 'LED off' comes after 'LED on', whose data is another. -/
theorem pktClass_ledOff_iff : pktClass w = .ledOff ↔ Carries w 0x0000000000#40 := by
  rw [pktClass_eq, Carries]
  split_ifs <;> simp_all

/-- The checks leave no bit of a word open: the CRC is that of the other fields, which are given (R146, R148). -/
theorem carries_iff
    (hc : crc8 ([Config.srcGpio ++ Config.startNibble, 0x01#8] ++ dataBytes d ++ [0x00#8]) = c) :
    Carries w d ↔ w = pktWord Config.srcGpio 0x01#8 d c := by
  constructor
  · rintro ⟨hstart, hcrc, hsource, hlength, hdata⟩
    have hw := pktWord_of_fields w hstart
    rw [hsource, hlength, hdata] at hw
    rw [← hw, crcOk_pktWord, hc] at hcrc
    rw [← hw, hcrc]
  · rintro rfl
    exact ⟨pktStart_pktWord .., (crcOk_pktWord ..).2 hc.symm, pktSource_pktWord .., pktLength_pktWord ..,
      pktData_pktWord ..⟩

/-- Settles O5: the CRCs of the two data fields are the two that R147 gives. -/
theorem exactlyTwoWordsAreDefined : Obligations.ExactlyTwoWordsAreDefined := by
  intro w
  have hon : packetOn = pktWord Config.srcGpio 0x01#8 0x00000000FF#40 0xB7#8 := by decide
  have hoff : packetOff = pktWord Config.srcGpio 0x01#8 0x0000000000#40 0x18#8 := by decide
  rw [pktClass_ledOn_iff, pktClass_ledOff_iff, hon, hoff]
  exact ⟨carries_iff (by decide +kernel), carries_iff (by decide +kernel)⟩

/-- With a master there is an LED_RX to set (R150). -/
theorem setMasterLed_of_master {s : State} {b : BoardId} (hb : s.masterBoard = some b) (v : LedState) :
    setMasterLed v s = .next (s.setLed b .ledRx v) := by
  rw [setMasterLed, hb]

/-- Settles O12: the treatment of each class, with the master's LED_RX for the two defined ones. -/
theorem receptionFollowsTheClasses : Obligations.ReceptionFollowsTheClasses := by
  intro w s b hb
  rw [runPacket_eq]
  cases pktClass w with
  | ledOn => exact setMasterLed_of_master hb .on
  | ledOff => exact setMasterLed_of_master hb .off
  | _ => rfl

end Sys2Proof.Proofs
end

section
/-!
The arithmetic of a frame (40_i2s_bus.md R91, R92, R94) and the open `wire_map` (R106).
-/

namespace Sys2Proof.Proofs

open Sys2Proof Sys2Proof.Machine

/-- A bit position lies in one of the two channels of its pair (R91, R94). -/
theorem channelOf_mem_pairChannels (p : Nat) :
    channelOf p = (pairChannels (pairOf p)).1 ∨ channelOf p = (pairChannels (pairOf p)).2 := by
  simp only [channelOf, pairOf, pairChannels, Config.sampleBits]
  omega

/-- Settles O35: a channel is 32 positions of the 256, a pair 64, and the position wraps after the last. -/
theorem positionsOfAFrame : Obligations.PositionsOfAFrame :=
  ⟨fun p hp => ⟨rfl, rfl, Nat.div_lt_of_lt_mul hp, channelOf_mem_pairChannels p⟩,
    fun _ hp => Nat.mod_eq_of_lt (Nat.succ_lt_succ hp), rfl, rfl, rfl⟩

/-- Settles O36: the formula of R92 evaluated. -/
theorem bitClockOfTheBus : Obligations.BitClockOfTheBus := by
  unfold Obligations.BitClockOfTheBus
  decide

/-- Settles O38: every `wire_map` is a permutation cut into two cells. -/
theorem wireMapRoundTrip : Obligations.WireMapRoundTrip := wireDecode_wireEncode

end Sys2Proof.Proofs
end

section
/-!
The master's reaction to the received word ends the frame (40_i2s_bus.md R100, 42_data_packet.md R148 to R151).
-/

namespace Sys2Proof.Proofs

open Sys2Proof Sys2Proof.Machine Sys2Proof.Safety Sys2Proof.Laws

variable {s : State} {w : PktWord}

/-- A word that fails a check of R148 is ignored. -/
theorem runPacket_of_invalid (hv : valid w = false) : runPacket w s = .next s := by
  rw [← Bool.not_eq_true, valid_iff, not_and] at hv
  rw [runPacket_eq, pktClass_eq]
  by_cases hstart : pktStart w = Config.startNibble
  · simp [hstart, hv hstart]
  · simp [hstart]

/-- A valid word of another source is refused (R151). -/
theorem runPacket_of_otherSource (hv : valid w = true) (hs : pktSource w ≠ Config.srcGpio) :
    runPacket w s = refuse (.unimplementedSource (pktSource w)) s := by
  obtain ⟨hstart, hcrc⟩ := valid_iff.1 hv
  rw [runPacket_eq, pktClass_eq]
  simp [hstart, hcrc, hs]

/-- With a word received, the step of an unmarked state is the master's reaction to it (R14, R100). -/
theorem step_of_rx (hu : unmarked s = true) (hw : s.rx = some w) :
    step s = andThen (runPacket w { s with rx := none }) endFrame := by
  obtain ⟨hf, hr⟩ := unmarked_iff.1 hu
  rw [step_unmarked hf hr, stepUnmarked_of_rx hw]

/-- Settles O25: the reaction by what the word's meaning answers. -/
theorem stepRunsTheReceivedPacket : Obligations.StepRunsTheReceivedPacket := by
  refine ⟨fun s w hu hw => ?_, fun s w i hi => ?_, fun s w hu hw hv => ?_, fun s w hu hw hv hs => ?_⟩
  · rw [step_of_rx hu hw]
    cases runPacket w { s with rx := none } <;> rfl
  · rw [runPacket, hi]
  · rw [step_of_rx hu hw, runPacket_of_invalid hv]
    rfl
  · rw [step_of_rx hu hw, runPacket_of_otherSource hv hs]
    rfl

end Sys2Proof.Proofs
end

section
/-!
The frame (40_i2s_bus.md R99 to R105): where it stops, who drives its cells, and what it changes.
-/

namespace Sys2Proof.Proofs

open Sys2Proof Sys2Proof.Machine Sys2Proof.Safety Sys2Proof.Claims Sys2Proof.Laws

variable {s t : State} {note : Option Bool} {ds : List Drive} {l : LineName} {c : Nat}

/-! ### Where a frame stops -/

theorem frameStep_of_inactive (ha : s.i2sActive = false) : frameStep note s = notEnabled .busActive := by
  simp [frameStep, ha]

section ActiveBus

variable (ha : s.i2sActive = true)
include ha

theorem frameStep_of_no_master (hm : s.masterBoard = none) :
    frameStep note s = notEnabled .masterBooted := by
  simp [frameStep, ha, hm]

variable (hm : s.masterBoard.isSome = true)
include hm

theorem frameStep_of_unrouted (hj : s.jumpersRouted = false) :
    frameStep note s = notEnabled .jumpersRouted := by
  simp [frameStep, ha, Option.isNone_eq_false_iff.2 hm, hj]

variable (hj : s.jumpersRouted = true)
include hj

theorem frameStep_of_not_table (ht : s.ampIsTable = false) :
    frameStep note s = refuse .unknownAmpConfig s := by
  simp [frameStep, ha, Option.isNone_eq_false_iff.2 hm, hj, ht]

theorem frameStep_of_contention (ht : ampIsTable s) (hc : contention (allDrives note s) = some (l, c)) :
    frameStep note s = raise (.busContention l s.frameNo c) (.busContention l s.frameNo c) s := by
  simp [frameStep, ha, Option.isNone_eq_false_iff.2 hm, hj, ampIsTable_iff.2 ht, hc]

end ActiveBus

/-- Settles O43: the checks of the frame step in their order. -/
theorem framesThatStop : Obligations.FramesThatStop := by
  refine ⟨fun note s ha => frameStep_of_inactive ha, fun note s ha hm => frameStep_of_no_master ha hm,
    fun note s ha hm hj => frameStep_of_unrouted ha hm hj, fun note s r ha hm hj hr hv => ?_⟩
  have ht : s.ampIsTable = false := by
    by_contra h
    exact hv (ampIsTable_iff.1 (by simpa using h) r hr)
  exact frameStep_of_not_table ha hm hj ht

/-! ### The contention check -/

theorem mem_allCells (l : LineName) (hc : c < 8) : (l, c) ∈ allCells := by
  cases l <;> decide +revert

/-- The check finds no cell exactly where no cell of the frame has two drivers (R105). -/
theorem contention_eq_none_iff :
    contention ds = none ↔ ∀ l c, (l, c) ∈ allCells → ¬ 1 < (drivesOf ds l c).length := by
  simp [contention, Prod.forall]

/-- The cell the check finds has two drivers (R105). -/
theorem length_drivesOf_of_contention (h : contention ds = some (l, c)) :
    1 < (drivesOf ds l c).length := by
  simpa using List.find?_some h

/-- With distinct roles the master's drives are those of the one master, where there is one (R101, R102). -/
theorem masterDrives_of_distinct (hd : rolesDistinct s = true) : masterDrives s =
    if s.masterBoard.isSome then
      [⟨.txm, 0, .master, Config.tone s.run.draws 0⟩, ⟨.txm, 1, .master, Config.tone s.run.draws 1⟩,
       ⟨.txm, 6, .master, Config.mData s.run.draws 6⟩, ⟨.txm, 7, .master, Config.mData s.run.draws 7⟩]
    else [] := by
  rw [masterDrives, boardsWith_distinct hd, ← State.masterBoard]
  cases s.masterBoard <;> rfl

/-- With distinct roles the slave's drives are those of the one slave, where there is one (R103). -/
theorem slaveDrives_of_distinct (hd : rolesDistinct s = true) : slaveDrives note s =
    if s.slaveBoard.isSome then
      [⟨.rxm, 2, .slave, (slaveCells note s).1⟩, ⟨.rxm, 3, .slave, (slaveCells note s).2⟩]
    else [] := by
  rw [slaveDrives, boardsWith_distinct hd, ← State.slaveBoard]
  cases s.slaveBoard <;> rfl

/-- The three agents have disjoint channels, and each board drives a cell once (R101 to R105). -/
theorem contention_of_distinct (hd : rolesDistinct s = true) : contention (allDrives note s) = none := by
  rw [allDrives, masterDrives_of_distinct hd, slaveDrives_of_distinct hd, ampDrives]
  split_ifs <;> rfl

/-- Each of two masters drives the first cell the check takes (R101, R105). -/
theorem contention_of_two_masters (h1 : s.role .one = some .master) (h2 : s.role .two = some .master) :
    contention (allDrives note s) = some (.txm, 0) := by
  have hmasters : s.boardsWith .master = [.one, .two] := by simp [State.boardsWith, h1, h2]
  have hslaves : s.boardsWith .slave = [] := by simp [State.boardsWith, h1, h2]
  rw [allDrives, masterDrives, slaveDrives, hmasters, hslaves, ampDrives]
  split_ifs <;> rfl

/-- Settles O42: the check by its cells, and the drives of distinct roles and of two masters. -/
theorem contentionIsFoundAndExcluded : Obligations.ContentionIsFoundAndExcluded := by
  refine ⟨fun ds l c h => length_drivesOf_of_contention h, fun ds l c hc hlt h => ?_,
    fun note s hd => contention_of_distinct hd, fun note s ha hj ht h1 h2 => ?_⟩
  · exact contention_eq_none_iff.1 h l c (mem_allCells l hc) hlt
  · exact frameStep_of_contention ha (masterBoard_isSome_iff.2 ⟨.one, h1⟩) hj ht
      (contention_of_two_masters h1 h2)

/-! ### The cells of an enabled frame -/

/-- An enabled frame answers the placed state. -/
theorem frame_of_ready (hr : frameReady s) : eventStep (.frame note) s = .next (placed note s) := by
  obtain ⟨ha, hm, hj, hd, ht⟩ := hr
  exact frameStep_ready ha hm hj ht (contention_of_distinct hd)

/-- The amplifier's output is enabled where all 40 writes are done and its global enable is set (R170). -/
theorem ampOutputEnabled_iff :
    s.ampOutputEnabled = true ↔ s.ampInitIdx = 40 ∧ Config.ampGlobalEn = true := by
  simp [State.ampOutputEnabled, Config.ampRegs]

/-- Only the master drives `TXM`, in `PAIR_0` and `PAIR_3` (R101, R102). -/
theorem txm_of_master (hd : rolesDistinct s = true) (hm : s.masterBoard.isSome = true) :
    laneOf (allDrives note s) .txm =
      ⟨.driven .master (Config.tone s.run.draws 0), .driven .master (Config.tone s.run.draws 1),
        .hiZ, .hiZ, .hiZ, .hiZ,
        .driven .master (Config.mData s.run.draws 6), .driven .master (Config.mData s.run.draws 7)⟩ := by
  rw [allDrives, masterDrives_of_distinct hd, slaveDrives_of_distinct hd, ampDrives, if_pos hm]
  split_ifs <;> rfl

/-- Nobody drives `PAIR_0` and `PAIR_3` of `RXM` (R99). -/
theorem rxm_outer_pairs (hd : rolesDistinct s = true) :
    (laneOf (allDrives note s) .rxm).pair 0 = (.hiZ, .hiZ) ∧
      (laneOf (allDrives note s) .rxm).pair 3 = (.hiZ, .hiZ) := by
  rw [allDrives, masterDrives_of_distinct hd, slaveDrives_of_distinct hd, ampDrives]
  split_ifs <;> exact ⟨rfl, rfl⟩

/-- `PAIR_2` of `RXM` is the amplifier's, where its output is enabled (R104). -/
theorem rxm_pair2 (hd : rolesDistinct s = true) : (laneOf (allDrives note s) .rxm).pair 2 =
    if s.ampOutputEnabled then
      (.driven .amp (Config.vData s.run.draws), .driven .amp (Config.iData s.run.draws))
    else (.hiZ, .hiZ) := by
  rw [allDrives, masterDrives_of_distinct hd, slaveDrives_of_distinct hd, ampDrives]
  split_ifs <;> rfl

/-- Settles O39: the lanes of the placed frame, pair by pair. -/
theorem framePlacesEveryAgent : Obligations.FramePlacesEveryAgent := by
  intro note s hr
  have ⟨_, hm, _, hd, _⟩ := hr
  obtain ⟨hp0, hp3⟩ := rxm_outer_pairs (note := note) hd
  obtain ⟨h0, h1⟩ := Prod.mk.inj hp0
  obtain ⟨h6, h7⟩ := Prod.mk.inj hp3
  refine ⟨_, _, frame_of_ready hr, rfl, txm_of_master hd hm, h0, h1, h6, h7, fun hs => ?_,
    fun hs => ⟨fun p hp hn => ?_, fun hidle => ?_⟩, ?_⟩
  · exact Prod.mk.inj (rxm_pair1_of_no_slave hd hs)
  · rw [← slaveCells_of_sent hp hn hs]
    exact Prod.mk.inj (rxm_pair1_of_slave hd hs)
  · have hpair := rxm_pair1_of_slave (note := note) hd hs
    rw [slaveCells_of_idle hidle] at hpair
    exact Prod.mk.inj hpair
  · have hpair := rxm_pair2 (note := note) hd
    split_ifs with he
    · rw [if_pos (ampOutputEnabled_iff.2 he)] at hpair
      exact Prod.mk.inj hpair
    · rw [if_neg (mt ampOutputEnabled_iff.1 he)] at hpair
      exact Prod.mk.inj hpair

/-! ### What else an enabled frame changes -/

/-- A packet that is sent is to be placed in one frame fewer (R103). -/
theorem pendingAfter_of_sent {p : TxPending} (hp : s.txPending = some p) (hs : s.slaveBoard ≠ none)
    (hn : sendNow note s = true) :
    pendingAfter note s = if p.left = 1 then none else some ⟨p.word, p.left - 1⟩ := by
  simp [pendingAfter, hp, hn, Option.isSome_iff_ne_none.2 hs]

/-- What is not sent stays as it is (R103). -/
theorem pendingAfter_of_kept (h : s.txPending = none ∨ s.slaveBoard = none ∨ sendNow note s = false) :
    pendingAfter note s = s.txPending := by
  cases hp : s.txPending with
  | none => simp [pendingAfter, hp]
  | some p =>
    rcases h with h | h | h
    · simp [hp] at h
    · simp [pendingAfter, hp, h]
    · simp [pendingAfter, hp, h]

/-- Settles O40: the fields of the placed state. -/
theorem frameChangesOnlyTheBus : Obligations.FrameChangesOnlyTheBus := by
  intro note s t hr h
  obtain rfl : t = placed note s := Host.Outcome.next.inj (h.symm.trans (frame_of_ready hr))
  exact ⟨fun p hp hs hn => pendingAfter_of_sent hp hs hn, fun hk => pendingAfter_of_kept hk,
    Option.some_ne_none _, fun n hn => List.getElem?_append_left hn, fun a => rfl, rfl⟩

end Sys2Proof.Proofs
end

section
/-!
The one cause of a change of LED_RX (41_board_functions.md R132, 42_data_packet.md R150).
-/

namespace Sys2Proof.Proofs

open Sys2Proof Sys2Proof.Machine Sys2Proof.Safety Sys2Proof.Laws

variable {s t : State} {b : BoardId}

/-- Only a packet of a defined class writes an LED_RX, the master's, with the level of its class (R150). -/
theorem ledRx_of_effect (h : Effect s t) : t.led b .ledRx = s.led b .ledRx ∨
    ∃ w v, s.rx = some w ∧ s.masterBoard = some b ∧ t.led b .ledRx = some v ∧
      ((v = .on ∧ pktClass w = .ledOn) ∨ (v = .off ∧ pktClass w = .ledOff)) := by
  cases h with
  | led w c v hw hm hv =>
    have hled := setLed_led s c b .ledRx v .ledRx
    by_cases hc : b = c
    · subst hc
      exact .inr ⟨w, v, hw, hm, hled.trans (if_pos ⟨rfl, rfl⟩), hv⟩
    · exact .inl (hled.trans (if_neg fun hb => hc hb.1))
  | setP06 c l => exact .inl (setBoard_led_eq (b := c) (x := { s.board c with p06 := some l }) rfl b)
  | setJp41 c p => exact .inl (setBoard_led_eq (b := c) (x := { s.board c with jp41 := p }) rfl b)
  | bootSlave c => exact .inl <|
      setBoard_led_eq (b := c) (x := { s.board c with role := some .slave, blue := some .on }) rfl b
  | bootMaster c => exact .inl <|
      setBoard_led_eq (b := c) (x := { s.board c with role := some .master }) rfl b
  | pressMaster c =>
    exact .inl <| (setLed_led _ c b .green .on .ledRx).trans <|
      (if_neg fun hn => LedName.noConfusion hn.2).trans (drawP05_led ..)
  | pressSlave => exact .inl (drawP05_led ..)
  | ignored | write | frame | inject | idle => exact .inl rfl

/-- Settles O52: the one effect that writes LED_RX, and the one word of each defined class. -/
theorem ledRxFollowsOnlyThePackets : Obligations.LedRxFollowsOnlyThePackets := by
  intro s t b h hne
  obtain ⟨-, -, he⟩ := step_effect h
  obtain ⟨w, v, hw, hm, hv, hclass⟩ := (ledRx_of_effect he).resolve_left hne
  obtain ⟨hon, hoff⟩ := exactlyTwoWordsAreDefined w
  refine ⟨hm, ?_⟩
  rcases hclass with ⟨rfl, hc⟩ | ⟨rfl, hc⟩
  · exact .inl ⟨hw.trans (congrArg some (hon.1 hc)), hv⟩
  · exact .inr ⟨hw.trans (congrArg some (hoff.1 hc)), hv⟩

end Sys2Proof.Proofs
end

section
/-!
Boot (41_board_functions.md R120 to R123): the board it changes, what else it sets, and where it stops.
-/

namespace Sys2Proof.Proofs

open Sys2Proof Sys2Proof.Machine Sys2Proof.Laws

variable {s : State} {b : BoardId} {l : Level}

/-- `roleOf`, in the words of R120. -/
theorem roleOf_eq : roleOf l = if l = .high then .master else .slave := by
  cases l <;> rfl

theorem bootSlave_board : (bootSlave b s).board b = { s.board b with role := some .slave, blue := some .on } :=
  setBoard_board_self ..

theorem bootMaster_board : (bootMaster b s).board b = { s.board b with role := some .master } :=
  setBoard_board_self ..

theorem bootSlave_board_other : (bootSlave b s).board (otherBoard b) = s.board (otherBoard b) :=
  setBoard_board_other _ _ _ _ otherBoard_ne

theorem bootMaster_board_other : (bootMaster b s).board (otherBoard b) = s.board (otherBoard b) :=
  setBoard_board_other _ _ _ _ otherBoard_ne

/-- Beside the boards, the slave's boot sets `sw_next` and clears `tx_pending` (R121). -/
theorem bootSlave_frame : bootSlave b s =
    { s with board1 := (bootSlave b s).board1, board2 := (bootSlave b s).board2,
             swNext := 0xFF#8, txPending := none } := by
  cases b <;> rfl

/-- Beside the boards, the master's boot stops the bus and queues `AmpInit` (R123, R168). -/
theorem bootMaster_frame : bootMaster b s =
    { s with board1 := (bootMaster b s).board1, board2 := (bootMaster b s).board2,
             i2sActive := false, ampInitIdx := 0, i2cReady := true, i2cQueue := ampWords } := by
  cases b <;> rfl

/-- Settles O29: the two levels, with the state each boot answers. -/
theorem bootGivesTheRoleOfTheLevel : Obligations.BootGivesTheRoleOfTheLevel := by
  intro s b l hr hp ho
  cases l with
  | low => exact ⟨_, boot_low hr hp ho, bootSlave_board_other,
      fun _ => ⟨bootSlave_board, bootSlave_frame⟩, fun h => Level.noConfusion h⟩
  | high => exact ⟨_, boot_high hr hp ho, bootMaster_board_other,
      fun h => Level.noConfusion h, fun _ => ⟨bootMaster_board, bootMaster_frame⟩⟩

/-- A second boot of a board does not exist (R211). -/
theorem boot_of_booted {r : Role} (hr : s.role b = some r) : boot b s = notEnabled (.notBootedYet b) :=
  if_pos (by rw [hr]; rfl)

/-- A boot needs the level of P0_6 (R120). -/
theorem boot_of_unset (hr : s.role b = none) (hp : (s.board b).p06 = none) :
    boot b s = notEnabled (.p06Set b) := by
  simp [boot, hr, hp]

/-- A boot does not give a role a second time (R122). -/
theorem boot_of_clash (hr : s.role b = none) (hp : (s.board b).p06 = some l)
    (ho : s.role (otherBoard b) = some (roleOf l)) : boot b s = refuse .roleClash s := by
  simp [boot, hr, hp, ho]

/-- Settles O30: the three conditions of a boot, in their order. -/
theorem bootStops : Obligations.BootStops :=
  ⟨fun _ _ _ hr hp ho => boot_of_clash hr hp (roleOf_eq ▸ ho), fun _ _ hr hp => boot_of_unset hr hp,
    fun _ _ _ hr => boot_of_booted hr⟩

end Sys2Proof.Proofs
end

section
/-!
Switch 2 (41_board_functions.md R124 to R130): the diagnostic output, then what the board's role makes of
the press.
-/

namespace Sys2Proof.Proofs

open Sys2Proof Sys2Proof.Machine Sys2Proof.Safety Sys2Proof.Claims Sys2Proof.Laws

variable {s : State} {b : BoardId}

/-- The diagnostic output writes P0_5 of its board and uses one draw (R130). -/
theorem pressShown_drawP05 : pressShown b s (drawP05 b s) :=
  ⟨setBoard_board_self .., setBoard_board_other _ _ _ _ otherBoard_ne, by cases b <;> rfl⟩

@[simp] theorem drawP05_txPending : (drawP05 b s).txPending = s.txPending := by simp [drawP05]

/-! ### The master -/

theorem pressMaster_of_inactive (hi : s.ampInitIdx = Config.ampRegs) (ha : s.i2sActive = false)
    (hj : s.jumpersRouted = true) :
    pressMaster b s = .next { s.setLed b .green .on with i2sActive := true, frameNo := 0 } := by
  simp [pressMaster, hi, ha, hj]

theorem pressMaster_of_unrouted (hi : s.ampInitIdx = Config.ampRegs) (ha : s.i2sActive = false)
    (hj : s.jumpersRouted = false) : pressMaster b s = notEnabled .jumpersRouted := by
  simp [pressMaster, hi, ha, hj]

theorem pressMaster_of_active (hi : s.ampInitIdx = Config.ampRegs) (ha : s.i2sActive = true) :
    pressMaster b s = refuse .masterPressWhileActive s := by
  simp [pressMaster, hi, ha]

/-- Settles O31: the master's press after the diagnostic output, which leaves its conditions alone. -/
theorem masterPressStartsTheBus : Obligations.MasterPressStartsTheBus := by
  intro s b hr hi
  have hi' : (drawP05 b s).ampInitIdx = Config.ampRegs := drawP05_ampInitIdx.trans hi
  have hp : eventStep (.pressSw2 b) s = pressMaster b (drawP05 b s) := pressSw2_of_master hr
  rw [hp]
  refine ⟨fun ha hj => ⟨_, pressShown_drawP05, ?_⟩, fun ha hj => ?_,
    fun ha => ⟨_, pressShown_drawP05, ?_⟩⟩
  · exact pressMaster_of_inactive hi' (by simpa using ha) (by simpa using hj)
  · exact pressMaster_of_unrouted hi' (by simpa using ha) (by simpa using hj)
  · exact pressMaster_of_active hi' (by simpa using ha)

/-! ### The slave -/

theorem pressSlave_of_idle (ha : s.i2sActive = true) (hp : s.txPending = none) :
    pressSlave s = .next { s with
      txPending := some ⟨slavePacket s, Config.pktFrames⟩, swNext := s.swNext ^^^ 0xFF#8 } := by
  simp [pressSlave, ha, hp]

theorem pressSlave_of_inactive (ha : s.i2sActive = false) :
    pressSlave s = refuse .slavePressWhileBusInactive s := by
  simp [pressSlave, ha]

theorem pressSlave_of_pending (ha : s.i2sActive = true) (hp : s.txPending ≠ none) :
    pressSlave s = refuse .slavePressWhilePending s := by
  simp [pressSlave, ha, Option.isSome_iff_ne_none.2 hp]

/-- The byte 0xFF makes the first packet of R147. -/
theorem slavePacket_of_ff (h : s.swNext = 0xFF#8) : slavePacket s = packetOn := by
  rw [slavePacket, h]
  decide +kernel

/-- The byte 0x00 makes the second packet of R147. -/
theorem slavePacket_of_zero (h : s.swNext = 0x00#8) : slavePacket s = packetOff := by
  rw [slavePacket, h]
  decide +kernel

/-- Settles O32: the slave's press after the diagnostic output, which leaves its conditions and its packet
alone. -/
theorem slavePressQueuesThePacket : Obligations.SlavePressQueuesThePacket := by
  intro s b hr
  have hp : eventStep (.pressSw2 b) s = pressSlave (drawP05 b s) := pressSw2_of_slave hr
  rw [hp]
  refine ⟨_, pressShown_drawP05,
    fun ha ht => ⟨slavePacket s, rfl, slavePacket_of_ff, slavePacket_of_zero, ?_⟩, fun ha => ?_, fun ha ht => ?_⟩
  · have h := pressSlave_of_idle (s := drawP05 b s) (by simpa using ha) (by simpa using ht)
    rwa [slavePacket_drawP05, drawP05_swNext] at h
  · exact pressSlave_of_inactive (by simpa using ha)
  · exact pressSlave_of_pending (by simpa using ha) (by simpa using ht)

end Sys2Proof.Proofs
end

section
/-!
The packet as `BuildPacket` makes it (42_data_packet.md R141, R142, R146): its fields, and that it passes the
receiver's check.
-/

namespace Sys2Proof.Proofs

open Sys2Proof Sys2Proof.Machine Sys2Proof.Laws

variable (s : Nibble) (l : Byte) (d : PktData) (c : Byte)

/-- Packing the eight bytes of a packet gives the word with those fields (R141, R142). -/
theorem pack_fields : pack ([s ++ Config.startNibble, l] ++ dataBytes d ++ [c]) = pktWord s l d c := by
  rw [← unpack_pktWord, pack_unpack]

/-- The first byte, as `BuildPacket` assembles it: the source above the start nibble (R146). -/
theorem firstByte_eq : s.setWidth 8 <<< 4 ||| Config.startNibble.setWidth 8 = s ++ Config.startNibble := by
  decide +revert

/-- `BuildPacket` puts every field in its place and the CRC of the other seven bytes on top (R146). -/
theorem buildPacket_dataBytes : buildPacket s l (dataBytes d) =
    pktWord s l d (crc8 ([s ++ Config.startNibble, l] ++ dataBytes d ++ [0x00#8])) := by
  rw [← pack_fields, ← firstByte_eq]
  rfl

/-- A built packet passes both checks of R148. -/
theorem valid_buildPacket : valid (buildPacket s l (dataBytes d)) = true := by
  rw [buildPacket_dataBytes, valid_iff]
  exact ⟨pktStart_pktWord .., (crcOk_pktWord ..).2 rfl⟩

/-- Any five bytes are the data bytes of a data field (R71). -/
theorem exists_dataBytes (d0 d1 d2 d3 d4 : Byte) : ∃ d, dataBytes d = [d0, d1, d2, d3, d4] :=
  ⟨(d4 ++ d3 ++ d2 ++ d1 ++ d0 : BitVec (8 + 8 + 8 + 8 + 8)), by
    -- `Nat.reduceAdd` would add the widths up, and the append lemmas would no longer see the parts.
    simp [dataBytes, dataByte, BitVec.extractLsb'_append_eq_of_add_le, BitVec.extractLsb'_append_eq_of_le,
      -Nat.reduceAdd]⟩

/-- A built packet with source `SRC_GPIO` decodes to the instruction with its fields (R71, R77), which is
well-formed where its length and its data are (R74). -/
theorem buildPacket_decodes_wellFormed (hl : l.toNat ≤ 5) (ht : tailZero l d = true) :
    ∃ i, decode (.pkt64 (buildPacket Config.srcGpio l (dataBytes d))) = .ok i ∧ WellFormed i = true := by
  rw [buildPacket_dataBytes]
  refine ⟨_, decodePkt_pktWord l d _, ?_⟩
  simp only [WellFormed, lengthFits, hl, ht, (crcOk_pktWord ..).2 rfl, decide_true, Bool.and_self]

/-- Settles O7: the fields of the word that `BuildPacket` packs, and the checks it passes. -/
theorem builtPacketsAreValid : Obligations.BuiltPacketsAreValid := by
  intro s l d0 d1 d2 d3 d4
  obtain ⟨d, hd⟩ := exists_dataBytes d0 d1 d2 d3 d4
  rw [← hd]
  refine ⟨?_, ?_, ?_, ?_, valid_buildPacket s l d, ?_⟩
  · rw [buildPacket_dataBytes, pktStart_pktWord]; rfl
  · rw [buildPacket_dataBytes, pktSource_pktWord]
  · rw [buildPacket_dataBytes, pktLength_pktWord]
  · rw [buildPacket_dataBytes, pktData_pktWord]
  · rintro rfl hl ht
    rw [buildPacket_dataBytes, pktData_pktWord] at ht
    exact buildPacket_decodes_wellFormed l d hl ht

end Sys2Proof.Proofs
end

section
/-!
The default CRC as an error check (42_data_packet.md R145, 95_test_vectors.md 2.3): the syndrome of a word is linear,
and no single bit has syndrome zero.
-/

namespace Sys2Proof.Proofs

open Sys2Proof Sys2Proof.Machine Sys2Proof.Laws

variable {v w : PktWord}

/-- The difference of the default CRC of the word and the CRC it holds. -/
def syndrome (w : PktWord) : Byte := crc8Default (unpack w) ^^^ pktCrc w

/-- Check 2 of R148 asks that the syndrome be zero. -/
theorem crcOkWith_crc8Default_iff : crcOkWith crc8Default w = true ↔ syndrome w = 0#8 := by
  rw [crcOkWith, beq_iff_eq, syndrome, BitVec.xor_eq_zero_iff]

/-- The default CRC of a difference of words is the difference of their CRCs. -/
theorem crc8Default_unpack_xor :
    crc8Default (unpack (v ^^^ w)) = crc8Default (unpack v) ^^^ crc8Default (unpack w) := by
  simp only [crc8Default_unpack, List.foldl_cons, List.foldl_nil, wordByte_xor, ← crcByte_xor, BitVec.xor_self]

theorem syndrome_xor : syndrome (v ^^^ w) = syndrome v ^^^ syndrome w := by
  have hcrc : pktCrc (v ^^^ w) = pktCrc v ^^^ pktCrc w := wordByte_xor v w 7
  rw [syndrome, crc8Default_unpack_xor, hcrc, syndrome, syndrome]
  ac_rfl

/-- Every single-bit error has a syndrome, be it in the fields or in the CRC. -/
theorem syndrome_singleBit : ∀ k < 64, syndrome (1#64 <<< k) ≠ 0#8 := by
  decide +kernel

/-- Settles O8: the syndrome of the changed word is that of the changed bit. -/
theorem singleBitErrorsAreCaught : Obligations.SingleBitErrorsAreCaught := by
  intro w hv k hk
  obtain ⟨-, hw⟩ := (Bool.and_eq_true ..).mp hv
  have hs : syndrome (w ^^^ (1#64 <<< k)) = syndrome (1#64 <<< k) := by
    rw [syndrome_xor, crcOkWith_crc8Default_iff.1 hw, BitVec.zero_xor]
  have hbad : crcOkWith crc8Default (w ^^^ (1#64 <<< k)) = false := by
    rw [← Bool.not_eq_true, crcOkWith_crc8Default_iff, hs]
    exact syndrome_singleBit k hk
  rw [validWith, hbad, Bool.and_false]

end Sys2Proof.Proofs
end

section
/-!
The packet's meaning (42_data_packet.md R148 to R151): what is ignored, what sets the master's LED_RX, what is
refused, and what stays as it was.
-/

namespace Sys2Proof.Proofs

open Sys2Proof Sys2Proof.Machine Sys2Proof.Laws

variable {length : Byte} {data : PktData} {crc : Byte} {s t : State}

/-- The packet instruction is the reception of its word (R77, R149). -/
theorem exec_pktSrcGpio_eq_runPacket :
    exec (.pktSrcGpio length data crc) s = runPacket (pktWord Config.srcGpio length data crc) s := by
  rw [runPacket, decodePkt_pktWord]

/-- With a good CRC the packet instruction is `GpioAction` (R150). -/
theorem exec_pktSrcGpio_of_crcOk (hc : crcOk (pktWord Config.srcGpio length data crc) = true) :
    exec (.pktSrcGpio length data crc) s = gpioAction length data s :=
  if_pos hc

/-- Without a master there is no LED_RX to set (R150). -/
theorem setMasterLed_of_no_master (hm : s.masterBoard = none) (v : LedState) :
    setMasterLed v s = notEnabled .masterBooted := by
  rw [setMasterLed, hm]

/-- Settles O9: the reception of an invalid word, of which a packet instruction with a wrong CRC is one. -/
theorem invalidWordsAreIgnored : Obligations.InvalidWordsAreIgnored := by
  refine ⟨fun w s hv => runPacket_of_invalid hv, fun length data crc s hc => ?_⟩
  rw [exec_pktSrcGpio_eq_runPacket]
  exact runPacket_of_invalid (by rw [← Bool.not_eq_true, valid_iff]; simp [Config.srcGpio, hc])

/-- Settles O10: the two payloads `GpioAction` knows, with a master and without one. -/
theorem gpioActionSetsALevel : Obligations.GpioActionSetsALevel := by
  refine ⟨fun s b length data crc hb hc => ?_, fun s length data crc hm hc => ?_⟩
  · rw [exec_pktSrcGpio_of_crcOk hc, gpioAction_eq, setMasterLed_of_master hb, setMasterLed_of_master hb]
    rfl
  · rw [exec_pktSrcGpio_of_crcOk hc, gpioAction_eq, setMasterLed_of_no_master hm, setMasterLed_of_no_master hm]
    simp only [and_or_left, ite_or]
    rfl

/-- Settles O11: a valid word of another source, and the mark that its refusal carries. -/
theorem otherSourcesAreRefused : Obligations.OtherSourcesAreRefused :=
  fun _ _ hv hs => runPacket_of_otherSource hv hs

/-- A packet that answers a next state is ignored or sets LED_RX of the master. -/
theorem exec_pktSrcGpio_next (h : exec (.pktSrcGpio length data crc) s = .next t) :
    t = s ∨ ∃ b v, s.masterBoard = some b ∧ t = s.setLed b .ledRx v := by
  rw [exec_pktSrcGpio_eq_runPacket] at h
  obtain ht | ⟨b, v, hb, ht, -⟩ := runPacket_next h
  · exact .inl ht
  · exact .inr ⟨b, v, hb, ht⟩

/-- An LED write leaves the pins and the jumper of every board alone, as it does the role. -/
theorem setLed_settings (s : State) (b b' : BoardId) (c : LedName) (v : LedState) :
    ((s.setLed b c v).board b').role = (s.board b').role ∧ ((s.setLed b c v).board b').p06 = (s.board b').p06 ∧
      ((s.setLed b c v).board b').jp41 = (s.board b').jp41 ∧
      ((s.setLed b c v).board b').p05 = (s.board b').p05 := by
  by_cases h : b' = b
  · subst h; simp
  · simp [setLed_board_other s b b' c v h]

/-- Beside the boards, an LED write changes nothing. -/
theorem setLed_frame (s : State) (b : BoardId) (c : LedName) (v : LedState) :
    s.setLed b c v = { s with board1 := (s.setLed b c v).board1, board2 := (s.setLed b c v).board2 } := by
  cases b <;> rfl

/-- Settles O13: the write of the master's LED_RX, and what it leaves alone. -/
theorem packetChangesOnlyLedRx : Obligations.PacketChangesOnlyLedRx := by
  intro length data crc s t h
  obtain rfl | ⟨m, v, hm, rfl⟩ := exec_pktSrcGpio_next h
  · exact ⟨fun _ _ _ => rfl, fun _ => ⟨rfl, rfl, rfl, rfl⟩, fun _ => rfl, rfl⟩
  · refine ⟨fun b c hbc => ?_, fun b => setLed_settings s m b .ledRx v, fun a => by rw [setLed_amp],
      setLed_frame s m .ledRx v⟩
    have hother : ¬(b = m ∧ c = .ledRx) := by
      rintro ⟨rfl, rfl⟩
      exact hbc.elim (· rfl) (· hm)
    rw [setLed_led, if_neg hother]

end Sys2Proof.Proofs
end

section
/-!
The words and the packets the spec works out (42_data_packet.md R147; 43_max98388.md R300, R305, R319, R339).
-/

namespace Sys2Proof.Proofs

open Sys2Proof Sys2Proof.Machine

/-- Settles O3: each word is the encoding of its unit. -/
theorem wordsOfTheSpecDecode : Obligations.WordsOfTheSpecDecode :=
  ⟨decodeEncodeEveryUnit (.pktSrcGpio 0x01#8 0x00000000FF#40 0xB7#8),
    decodeEncodeEveryUnit (.pktSrcGpio 0x01#8 0x0000000000#40 0x18#8),
    decodeEncodeEveryUnit .ampwThermalWrn, decodeEncodeEveryUnit .ampwPcmModeCfg,
    decodeEncodeEveryUnit .ampwPcmRxSrc2, decodeEncodeEveryUnit .ampwBrwnoutProtAlcEn⟩

/-- The trace of R147 ends in the default CRC. -/
theorem crc8Default_of_crcTrace {buf trace : List Byte} {crc : Byte}
    (ht : crcTrace 0x00#8 (buf.set 7 0x00#8) = trace) (hcrc : trace.getLastD 0x00#8 = crc) :
    crc8Default buf = crc := by
  have hlast (c : Byte) (bs : List Byte) : bs.foldl crcByte c = (crcTrace c bs).getLastD c := by
    induction bs generalizing c with
    | nil => rfl
    | cons b bs ih => rw [List.foldl_cons, ih, crcTrace, List.getLastD_cons]
  rw [crc8Default, hlast, ht, hcrc]

/-- Settles O6: the machine's CRCs are its two pairs, and the default ones the ends of the two traces. -/
theorem workedPacketsCheck : Obligations.WorkedPacketsCheck := by
  have hon : crcTrace 0 [0x0D, 0x01, 0xFF, 0x00, 0x00, 0x00, 0x00, 0x00] =
      [0x23, 0xEE, 0x77, 0x42, 0xC9, 0x71, 0x50, 0xB7] := by decide +kernel
  have hoff : crcTrace 0 [0x0D, 0x01, 0x00, 0x00, 0x00, 0x00, 0x00, 0x00] =
      [0x23, 0xEE, 0x84, 0x95, 0xE2, 0xA0, 0x69, 0x18] := by decide +kernel
  exact ⟨by decide, by decide, by decide +kernel, by decide +kernel,
    crc8Default_of_crcTrace hon rfl, crc8Default_of_crcTrace hoff rfl, hon, hoff⟩

end Sys2Proof.Proofs
end

section
/-!
The register write (43_max98388.md R165): what it does where a master can write, and that nothing else writes; the rows
R300 to R339 as its special cases, and the power-up values of R167.
-/

namespace Sys2Proof.Proofs

open Sys2Proof Sys2Proof.Machine Sys2Proof.Claims Sys2Proof.Laws

variable {s : State} {a : RegAddr} {v : Byte}

/-! ### The table -/

theorem ampListed_eq_false : ampListed a.toNat = false ↔ ∀ r ∈ ampTable, r.addr ≠ a := by
  rw [← Bool.not_eq_true, ampListed_iff]
  simp

/-- The addresses of the table are distinct, so a row is the one its address finds. -/
theorem ampRow_of_row {r : AmpRow} (hr : r ∈ ampTable) : ampRow r.addr.toNat = some r := by
  obtain ⟨q, hq⟩ := Option.isSome_iff_exists.1 (listed_of_row r hr)
  obtain ⟨hm, ha⟩ := findRow_some hq
  rw [hq, List.inj_on_of_nodup_map ampTable_nodup hm hr ha]

/-- A row's register powers up with the row's value where the row is marked default (R167). -/
theorem ampPowerUp_of_row {r : AmpRow} (hr : r ∈ ampTable) :
    ampPowerUp r.addr.toNat = if r.isDefault then some r.value else none := by
  rw [ampPowerUp, ampRow_of_row hr]

/-- Settles O45: the memory of the reset state lists no register, so each reads its power-up value. -/
theorem powerUpValuesOfTheAmplifier : Obligations.PowerUpValuesOfTheAmplifier :=
  ⟨fun _ hr => ampPowerUp_of_row hr, by decide, by decide, rfl⟩

/-! ### The operation -/

theorem ampWrite_of_row (hs : writeReady s) (hr : ∃ r ∈ ampTable, r.addr = a) :
    ampWrite a v s = .next (s.ampStored a v) :=
  ampWrite_ready (masterBoard_isSome_iff.2 hs.1) hs.2 (ampListed_iff.2 hr)

theorem ampWrite_of_no_row (hs : writeReady s) (hr : ∀ r ∈ ampTable, r.addr ≠ a) :
    ampWrite a v s = .refused (.unlistedAmpRegister a s.markRefused) :=
  ampWrite_unlisted (masterBoard_isSome_iff.2 hs.1) hs.2 (ampListed_eq_false.2 hr)

theorem ampWrite_of_no_master (hm : ∀ b, s.role b ≠ some .master) :
    ampWrite a v s = .refused (.notEnabled .masterBooted) := by
  simp [ampWrite, notEnabled, masterBoard_eq_none.2 hm]

theorem ampWrite_of_no_i2c (hm : ∃ b, s.role b = some .master) (hi : s.i2cReady = false) :
    ampWrite a v s = .refused (.notEnabled .i2cInitialised) := by
  simp [ampWrite, notEnabled, hi, Option.isNone_eq_false_iff.2 (masterBoard_isSome_iff.2 hm)]

/-- A completed register write: the register, the other registers, the count and the rest of the state (R32, R51,
R165). -/
theorem ampStored_effect (s : State) (a : RegAddr) (v : Byte) :
    Memory.read (s.ampStored a v).amp a.toNat = some v ∧
    (∀ x, x ≠ a.toNat → Memory.read (s.ampStored a v).amp x = Memory.read s.amp x) ∧
    (s.ampInitIdx < 40 → (s.ampStored a v).ampInitIdx = s.ampInitIdx + 1) ∧
    (40 ≤ s.ampInitIdx → (s.ampStored a v).ampInitIdx = 40) ∧
    s.ampStored a v =
      { s with amp := (s.ampStored a v).amp, ampInitIdx := (s.ampStored a v).ampInitIdx } :=
  ⟨read_write_self _ _ _, fun _ hx => read_write_other _ _ hx, fun hn => Nat.min_eq_right hn,
    fun hn => Nat.min_eq_left (Nat.le_succ_of_le hn), rfl⟩

/-- Writing the power-up value removes the register's entry, of which the power-up memory has none (R167). -/
theorem write_powerUp {n : Nat} (h : ampPowerUp n = some v) : Memory.write [] n v = [] :=
  if_pos h

/-- Both memories are canonical and hold the same registers, so they are the same list (R51). -/
theorem write_comm {m : Memory} {a b : Nat} (v w : Byte) (hm : Memory.wf m = true) (ha : ampListed a = true)
    (hb : ampListed b = true) (hab : a ≠ b) :
    Memory.write (Memory.write m a v) b w = Memory.write (Memory.write m b w) a v := by
  refine wf_ext (write_wf w hb (write_wf v ha hm)) (write_wf v ha (write_wf w hb hm)) fun x => ?_
  by_cases hxa : x = a
  · subst hxa
    rw [read_write_other _ _ hab, read_write_self, read_write_self]
  · rw [read_write_other _ v hxa]
    by_cases hxb : x = b
    · subst hxb
      rw [read_write_self, read_write_self]
    · rw [read_write_other _ _ hxb, read_write_other _ _ hxb, read_write_other _ _ hxa]

/-- Settles O21: the operation at a row's address and at another one, and two laws of the memory. -/
theorem registerWriteOperation : Obligations.RegisterWriteOperation := by
  refine ⟨fun a v s hs => ?_, fun r hr hd => write_powerUp (by rw [ampPowerUp_of_row hr, if_pos hd]),
    fun m a b v w hm ha hb hab => write_comm v w hm ha hb hab⟩
  rw [runAmpWord_eq, ampAddr_append, ampValue_append]
  exact ⟨fun hr => ⟨_, ampWrite_of_row hs hr, ampStored_effect s a v⟩, fun hr => ampWrite_of_no_row hs hr⟩

/-- Settles O22: a unit of the format is a register write, which asks for a master and then for its port. -/
theorem onlyAMasterWritesRegisters : Obligations.OnlyAMasterWritesRegisters := by
  intro i w s hi
  obtain ⟨length, data, crc, rfl⟩ | hmem := packet_or_registerWrite i
  · cases hi
  · obtain ⟨r, hr⟩ := exists_row hmem
    rw [exec_of_row (r, i) hr]
    exact ⟨ampWrite_of_no_master, ampWrite_of_no_i2c⟩

/-! ### The rows -/

/-- The `k`-th row of the table and the `k`-th instruction mean what the row's rule says (R300 to R339). -/
theorem rowMeans_of_row {k : Nat} {name : String} {i : Instr} {d : Bool} {w : AmpWord}
    (h : (ampTable.zip ampInstrs)[k - 1]? = some (⟨name, a, v, d⟩, i)) (hw : a ++ v = w) :
    rowMeans k name i a v d w := by
  subst hw
  have hp := List.mem_of_getElem? h
  have hr : ⟨name, a, v, d⟩ ∈ ampTable := mem_ampTable_iff.2 ⟨i, hp⟩
  have henc : encode i = .ampw24 (a ++ v) := encode_of_row _ hp
  refine ⟨(List.getElem?_zip_eq_some.1 h).1, henc, henc ▸ decodeEncodeEveryUnit i, rfl,
    ampPowerUp_of_row hr, fun s hs => ⟨s.ampStored a v, ?_, ampStored_effect s a v⟩⟩
  rw [exec_of_row _ hp]
  exact ampWrite_of_row hs ⟨_, hr, rfl⟩

/-- Settles O14: rows 1 to 5. -/
theorem protectionRegisterWrites : Obligations.ProtectionRegisterWrites :=
  ⟨rowMeans_of_row rfl rfl, rowMeans_of_row rfl rfl, rowMeans_of_row rfl rfl, rowMeans_of_row rfl rfl,
    rowMeans_of_row rfl rfl⟩

/-- Settles O15: rows 6 to 10. -/
theorem pcmFormatAndSlotRegisterWrites : Obligations.PcmFormatAndSlotRegisterWrites :=
  ⟨rowMeans_of_row rfl rfl, rowMeans_of_row rfl rfl, rowMeans_of_row rfl rfl, rowMeans_of_row rfl rfl,
    rowMeans_of_row rfl rfl⟩

/-- Settles O16: rows 11 to 18. -/
theorem highImpedanceRegisterWrites : Obligations.HighImpedanceRegisterWrites :=
  ⟨rowMeans_of_row rfl rfl, rowMeans_of_row rfl rfl, rowMeans_of_row rfl rfl, rowMeans_of_row rfl rfl,
    rowMeans_of_row rfl rfl, rowMeans_of_row rfl rfl, rowMeans_of_row rfl rfl, rowMeans_of_row rfl rfl⟩

/-- Settles O17: rows 19 to 24. -/
theorem pcmRoutingRegisterWrites : Obligations.PcmRoutingRegisterWrites :=
  ⟨rowMeans_of_row rfl rfl, rowMeans_of_row rfl rfl, rowMeans_of_row rfl rfl, rowMeans_of_row rfl rfl,
    rowMeans_of_row rfl rfl, rowMeans_of_row rfl rfl⟩

/-- Settles O18: rows 25 to 31. -/
theorem speakerRegisterWrites : Obligations.SpeakerRegisterWrites :=
  ⟨rowMeans_of_row rfl rfl, rowMeans_of_row rfl rfl, rowMeans_of_row rfl rfl, rowMeans_of_row rfl rfl,
    rowMeans_of_row rfl rfl, rowMeans_of_row rfl rfl, rowMeans_of_row rfl rfl⟩

/-- Settles O19: rows 32 and 33. -/
theorem ivDataRegisterWrites : Obligations.IvDataRegisterWrites :=
  ⟨rowMeans_of_row rfl rfl, rowMeans_of_row rfl rfl⟩

/-- Settles O20: rows 34 to 40. -/
theorem brownOutRegisterWrites : Obligations.BrownOutRegisterWrites :=
  ⟨rowMeans_of_row rfl rfl, rowMeans_of_row rfl rfl, rowMeans_of_row rfl rfl, rowMeans_of_row rfl rfl,
    rowMeans_of_row rfl rfl, rowMeans_of_row rfl rfl, rowMeans_of_row rfl rfl⟩

end Sys2Proof.Proofs
end

section
/-!
The register writes a step performs (43_max98388.md R165, R168): one write, and the 40 of `AmpInit`; and the amplifier's
slots (R173).
-/

namespace Sys2Proof.Proofs

open Sys2Proof Sys2Proof.Machine Sys2Proof.Safety Sys2Proof.Claims Sys2Proof.Laws

variable {s : State}

/-- With nothing received and a register write to do, the step of an unmarked state is that write (R165). -/
theorem step_of_queue {w : AmpWord} {ws : List AmpWord} (hu : unmarked s = true) (hx : s.rx = none)
    (hq : s.i2cQueue = w :: ws) : step s = runAmpWord w { s with i2cQueue := ws } := by
  obtain ⟨hf, hr⟩ := unmarked_iff.1 hu
  simp only [step_unmarked hf hr, stepUnmarked, hx, hq]

/-- Settles O26: the write at the head of the queue, at a row's address and at another one. -/
theorem stepRunsTheRegisterWrite : Obligations.StepRunsTheRegisterWrite := by
  refine ⟨fun s w ws hu hx hq => step_of_queue hu hx hq, fun s w i hi => ?_,
    fun s w ws hu hx hq hs => ?_⟩
  · rw [runAmpWord, hi]
  · have hs' : writeReady { s with i2cQueue := ws } := hs
    rw [step_of_queue hu hx hq, runAmpWord_eq]
    exact ⟨fun hr => ⟨_, ampWrite_of_row hs' hr, rfl, read_write_self _ _ _⟩,
      fun hr => ampWrite_of_no_row hs' hr⟩

/-! ### AmpInit -/

/-- The registers after the writes of the rows in their order (R168). -/
def writeRows (m : Memory) (rows : List AmpRow) : Memory :=
  rows.foldl (fun m r => Memory.write m r.addr.toNat r.value) m

/-- Writing rows of the table leaves the row's value in each of them and in each register that had it. -/
theorem read_writeRows {rows : List AmpRow} (hrows : rows ⊆ ampTable) {m : Memory} {q : AmpRow}
    (hq : q ∈ ampTable) (h : q ∈ rows ∨ Memory.read m q.addr.toNat = some q.value) :
    Memory.read (writeRows m rows) q.addr.toNat = some q.value := by
  induction rows generalizing m with
  | nil => exact h.resolve_left List.not_mem_nil
  | cons r rows ih =>
    obtain ⟨hr, hrows⟩ := List.cons_subset.1 hrows
    rw [List.mem_cons, or_comm (a := q = r), or_assoc] at h
    exact ih hrows (h.imp_right (read_write_row hq hr))

theorem writeRows_wf {rows : List AmpRow} (hrows : rows ⊆ ampTable) {m : Memory} (hm : Memory.wf m = true) :
    Memory.wf (writeRows m rows) = true := by
  induction rows generalizing m with
  | nil => exact hm
  | cons r rows ih =>
    obtain ⟨hr, hrows⟩ := List.cons_subset.1 hrows
    exact ih hrows (write_wf _ (listed_of_row r hr) hm)

/-- A step with a row of the table to write writes and counts it (R165, R168). -/
theorem step_of_row {r : AmpRow} {ws : List AmpWord} (hr : r ∈ ampTable) (hu : unmarked s = true)
    (hx : s.rx = none) (hs : writeReady s) (hq : s.i2cQueue = r.word :: ws) :
    step s = .next (State.ampStored { s with i2cQueue := ws } r.addr r.value) := by
  have hs' : writeReady { s with i2cQueue := ws } := hs
  rw [step_of_queue hu hx hq, AmpRow.word, runAmpWord_append hs' (listed_of_row r hr)]

theorem run_succ {M : Host.Core} {n : Nat} {s t : M.State} (h : M.step s = .next t) :
    M.run (n + 1) s = M.run n t := by
  simp only [Host.Core.run, h]

/-- As many steps as there are rows to write perform the writes, and nothing else (R168). -/
theorem run_writeRows {rows : List AmpRow} (hrows : rows ⊆ ampTable) (hu : unmarked s = true)
    (hx : s.rx = none) (hs : writeReady s) (hq : s.i2cQueue = rows.map AmpRow.word)
    (hn : s.ampInitIdx + rows.length ≤ Config.ampRegs) :
    Host.Core.run core rows.length s = .next
      { s with amp := writeRows s.amp rows, ampInitIdx := s.ampInitIdx + rows.length, i2cQueue := [] } := by
  induction rows generalizing s with
  | nil =>
    rw [List.map_nil] at hq
    simp only [List.length_nil, Host.Core.run, writeRows, List.foldl_nil, Nat.add_zero, ← hq]
  | cons r rows ih =>
    obtain ⟨hr, hrows⟩ := List.cons_subset.1 hrows
    rw [List.length_cons] at hn
    have hidx : min Config.ampRegs (s.ampInitIdx + 1) = s.ampInitIdx + 1 := Nat.min_eq_right (by omega)
    refine (run_succ (M := core) (step_of_row hr hu hx hs hq)).trans (Eq.trans (ih hrows hu hx hs rfl ?_) ?_)
    · rw [ampStored_ampInitIdx, hidx]
      omega
    · rw [ampStored_ampInitIdx, hidx, Nat.add_assoc, Nat.add_comm 1]
      rfl

/-- Settles O24: `AmpInit` is the 40 rows of the table, written from count 0. -/
theorem ampInitReachesTheTable : Obligations.AmpInitReachesTheTable := by
  intro s hu hx hs hn hq
  have hlen : ampTable.length = 40 := rfl
  have hrun := run_writeRows (List.Subset.refl ampTable) hu hx hs hq (by rw [hn, hlen]; decide)
  rw [hn, hlen] at hrun
  have hread (q : AmpRow) (hq : q ∈ ampTable) :
      Memory.read (writeRows s.amp ampTable) q.addr.toNat = some q.value :=
    read_writeRows (List.Subset.refl ampTable) hq (.inl hq)
  have hwf : Memory.wf s.amp = true → Memory.wf (writeRows s.amp ampTable) = true :=
    writeRows_wf (List.Subset.refl ampTable)
  -- The registers are named, or the unifier would run the 40 writes.
  generalize writeRows s.amp ampTable = m at hrun hread hwf
  exact ⟨_, hrun, rfl, rfl, hread, hwf, rfl⟩

/-! ### The amplifier's slots -/

/-- Settles O37: slots 16 and 21 bound the width from below and from above. -/
theorem amplifierSlotsAreEightBits : Obligations.AmplifierSlotsAreEightBits := by
  refine ⟨fun w => ?_, rfl, rfl, rfl, rfl⟩
  rw [Config.ampSlotBits]
  omega

end Sys2Proof.Proofs
end
